-- ==== Sys2Proof/Word.lean ====
section
/-! DEFINITION. The data words of the BMSD block: bytes (every space of the block is a space of 8-bit bytes, R70)
and the 64-bit command descriptor (R110). -/

namespace Sys2Proof

/-- One byte: a bus payload byte, a device register, a byte of PBUF or IMG (R70). -/
abbrev Byte := BitVec 8

/-- One command descriptor: exactly 64 bits, written whole to CMD (R110). -/
abbrev Descriptor := BitVec 64

end Sys2Proof
end

