-- ==== Sys2Proof/Config.lean ====
section
/-! DEFINITION. What is fixed before the block runs (CFG, R6 to R12) and what the spec leaves free: the environment's
draws (R90) and the contents of memory bytes nothing has written (R71, R72). -/

namespace Sys2Proof

/-- The direction of an address byte: write mode or read mode (R85). -/
inductive Dir
  | write
  | read
  deriving DecidableEq, Repr, Inhabited

/-- The three answers of the bus to an address byte or a transmitted byte (R90). -/
inductive Answer
  | ack
  | nack
  | arblost
  deriving DecidableEq, Repr, Inhabited

/-! ### Num, the abstract numbers of the sample path (R11, R12)

`Num` is uninterpreted: a value is the term that the block computed, over the operations of `CFG.NUM` and the
functions of `CFG.OM`. Two equal terms are equal numbers under every instantiation of CFG.NUM and CFG.OM;
different terms may still be equal numbers (log entry 8). -/

/-- `OM.quat` applied to the four raw quaternion fields: a value of OrientationMath's opaque type Q (R12). -/
structure Quat where
  w : BitVec 16
  x : BitVec 16
  y : BitVec 16
  z : BitVec 16
  deriving DecidableEq, Repr

/-- A component of the gravity vector that `OM.gravity` returns (R12). -/
inductive Axis
  | x
  | y
  | z
  deriving DecidableEq, Repr

/-- A component of what `OM.ypr` returns, in radians (R12). -/
inductive Angle
  | yaw
  | pitch
  | roll
  deriving DecidableEq, Repr

/-- The number type of the sample path as terms over CFG.NUM and CFG.OM (R11, R12). -/
inductive Num
  /-- `ofInt i` (R11). -/
  | ofInt (i : Int)
  /-- `ofDec` of the decimal literal `mantissa / 10 ^ digits` (R11). -/
  | ofDec (mantissa : Int) (digits : Nat)
  | add (a b : Num)
  | sub (a b : Num)
  | mul (a b : Num)
  | div (a b : Num)
  | sqrt (a : Num)
  /-- `x * 180 / pi` (R11). -/
  | rad2deg (a : Num)
  /-- A component of `OM.gravity(q)`, in g (R12). -/
  | gravity (k : Axis) (q : Quat)
  /-- A component of `OM.ypr(q, (gx, gy, gz))` (R12). -/
  | ypr (k : Angle) (q : Quat) (gx gy gz : Num)
  /-- A number nothing constrains: what number register `j` holds after reset number `epoch` (R37, U3). -/
  | unspecified (epoch j : Nat)
  deriving DecidableEq, Repr

/-! ### CFG -/

/-- The device-constant table CFG.DEV (R8). -/
structure DevTable where
  devaddr : BitVec 7
  raWhoAmI : Byte
  raIntEnable : Byte
  raIntStatus : Byte
  raFifoCountH : Byte
  raFifoRW : Byte
  raBankSel : Byte
  raMemStartAddr : Byte
  raMemRW : Byte
  raTempH : Byte
  raUserCtrl : Byte
  fifoResetStart : BitVec 3
  fifoOflowMask : Byte
  intEnableValue : Byte
  deriving DecidableEq, Repr

/-- CFG.PKT_OFF: where each raw field stands in a FIFO packet (R9, R243). -/
structure PktOff where
  qw : Nat
  qx : Nat
  qy : Nat
  qz : Nat
  gx : Nat
  gy : Nat
  gz : Nat
  ax : Nat
  ay : Nat
  az : Nat
  deriving DecidableEq, Repr

/-- The configuration record CFG without its function records NUM and OM, which are `Num` (R7, R8, R9). -/
structure Cfg where
  chunk : Nat
  pollCeiling : Nat
  idRetryMax : Nat
  idExpected : Byte
  gyroSens : Num
  tempSlopeDiv : Num
  fifoOvfThreshold : Nat
  clkPsc : Nat
  clkLow : Nat
  clkHigh : Nat
  dev : DevTable
  pbufSize : Nat
  imgSize : Nat
  dmpImgBase : BitVec 16
  dmpImgLen : BitVec 16
  setupVerify : Bool
  accelLsbPerG : Num
  pktOff : PktOff
  deriving DecidableEq, Repr

/-- The "suggested" column of R8. -/
def DevTable.suggested : DevTable where
  devaddr := 0x68
  raWhoAmI := 0x75
  raIntEnable := 0x38
  raIntStatus := 0x3A
  raFifoCountH := 0x72
  raFifoRW := 0x74
  raBankSel := 0x6D
  raMemStartAddr := 0x6E
  raMemRW := 0x6F
  raTempH := 0x41
  raUserCtrl := 0x6A
  fifoResetStart := 5
  fifoOflowMask := 0x10
  intEnableValue := 0x32

/-- The default packet layout of R243. -/
def PktOff.suggested : PktOff where
  qw := 0
  qx := 4
  qy := 8
  qz := 12
  gx := 16
  gy := 20
  gz := 24
  ax := 28
  ay := 32
  az := 36

/-- DESIGN CHOICE (log entry 4): the configuration that the one reset state carries, the test vectors' CFG
(`95_test_vectors.md`, conventions and P5). No rule depends on these values and no statement may: statements hold for
every CFG. -/
def Cfg.suggested : Cfg where
  chunk := 16
  pollCeiling := 1
  idRetryMax := 3
  idExpected := 0x68
  gyroSens := .ofDec 164 1
  tempSlopeDiv := .ofInt 340
  fifoOvfThreshold := 1024
  clkPsc := 0
  clkLow := 0
  clkHigh := 0
  dev := DevTable.suggested
  pbufSize := 64
  imgSize := 4096
  dmpImgBase := 0
  dmpImgLen := 16
  setupVerify := false
  accelLsbPerG := .ofInt 8192
  pktOff := PktOff.suggested

/-! ### Constants DS fixes (R6) -/

/-- BANK_COUNT (R6). -/
def bankCount : Nat := 32

/-- BANK_SIZE in bytes (R6). -/
def bankSize : Nat := 256

/-- PKT_SIZE in bytes (R6). -/
def pktSize : Nat := 42

/-! ### Free values

Constants without a body: nothing can be proved of what they return, so what is proved holds for every answer
sequence (R90) and for every content of the bytes nobody wrote (U1, U2). -/

namespace Config

/-- ENV's free draw for the `n`-th question when the question is ENV.addr (R90, log entry 1). -/
opaque envAddr : Nat → Answer

/-- ENV's free draw for the `n`-th question when the question is ENV.tx (R90, log entry 1). -/
opaque envTx : Nat → Answer

/-- ENV's free draw for the `n`-th question when the question is ENV.rx (R90, log entry 1). -/
opaque envRx : Nat → BitVec 8

/-- ENV's free draw for the `n`-th question when the question is ENV.ready (R90, log entry 1). -/
opaque envReady : Nat → Bool

/-- The byte that PBUF holds at `index` after reset number `epoch` while nothing has written it (R71, U1, log
entry 7). -/
opaque pbufUnwritten (epoch index : Nat) : BitVec 8

/-- The byte that IMG holds at `address` after reset number `epoch` while nothing has written it (R72, U2, log
entry 7). -/
opaque imgUnwritten (epoch address : Nat) : BitVec 8

end Config

end Sys2Proof
end

