-- ==== Sys2Proof/Machine/State.lean ====
section
/-! DEFINITION. The state of the BMSD block (R20) as plain data: the host register file, the BusTransport,
FirmwareProgrammer and AcquisitionEngine registers, the sequencer's control state (R35 (e)), PBUF and IMG, the bus
trace, and beside them what the one step function needs to be given: CFG, the moves of HOST and ENV that are still to
come, and ENV's answers. -/

namespace Sys2Proof.Machine

/-! ### Results (R24, R271) -/

/-- The result codes of R271; codes 0x0D to 0xFF are never produced. -/
inductive Code
  | ok
  | busTimeout
  | busNack
  | arbLost
  | deviceNotResponding
  | dmpInitFailed
  | fwUploadFailed
  | illegalCommand
  | illegalOperand
  | notReady
  | verifyMismatch
  | badSpecialOpcode
  | imageMalformed
  deriving DecidableEq, Repr

/-- RESULT (HR2, R24): CODE, CAUSE, RBIT and VALID; the other bits read as zero. -/
structure Result where
  code : Code
  cause : Code
  rbit : Bool
  valid : Bool
  deriving DecidableEq, Repr

/-- DeviceStatus (R23): three values, "3 never occurs" (U6). -/
inductive DevStat
  | disconnected
  | connected
  | dmpReady
  deriving DecidableEq, Repr

/-! ### The bus trace (R85) -/

/-- The bus events of R85. -/
inductive Event
  | start
  | addr (sa : BitVec 7) (dir : Dir) (ans : Answer)
  | tx (b : Byte) (ans : Answer)
  | rx (b : Byte)
  | stop
  | ready (ok : Bool)
  | reset
  | init
  deriving DecidableEq, Repr

/-! ### BusTransport (R26 to R29) -/

/-- The BusTransport state: working registers (R26), mode bits (R27) with INITD (R23), wire-condition flags (R28) and
sticky event flags (R29). -/
structure BusRegs where
  sa : BitVec 7
  rega : Byte
  cnt : BitVec 16
  bcnt : BitVec 16
  retry : Bool
  tmpb : Byte
  clkpsc : Nat
  clkl : Nat
  clkh : Nat
  initd : Bool
  mst : Bool
  trx : Bool
  rm : Bool
  qen : Bool
  irs : Bool
  bb : Bool
  stp : Bool
  ardy : Bool
  nack : Bool
  arbl : Bool
  deriving DecidableEq, Repr

/-! ### FirmwareProgrammer (R30, R31) -/

/-- The FirmwareProgrammer registers (R30) and the record cursor (R31). -/
structure ProgRegs where
  curbank : BitVec 5
  curoff : BitVec 8
  remain : BitVec 16
  srcptr : BitVec 17
  chunklen : BitVec 9
  verify : Bool
  vbuf : List Byte
  ipos : BitVec 17
  iend : BitVec 17
  deriving DecidableEq, Repr

/-! ### AcquisitionEngine (R32 to R34) -/

/-- The raw 16-bit fields of a FIFO packet: RAWQ[0..3], RAWA[0..2], RAWG[0..2] (R32, R243). -/
structure RawFields where
  qw : BitVec 16
  qx : BitVec 16
  qy : BitVec 16
  qz : BitVec 16
  ax : BitVec 16
  ay : BitVec 16
  az : BitVec 16
  gx : BitVec 16
  gy : BitVec 16
  gz : BitVec 16
  deriving DecidableEq, Repr

/-- The eleven numeric fields of a Sample in DS's field order (R33): SMP0..SMP10, STG[0..10], ACC[0..10]. -/
structure Sample where
  roll : Num
  pitch : Num
  yaw : Num
  rollRate : Num
  pitchRate : Num
  yawRate : Num
  xAccel : Num
  yAccel : Num
  zAccel : Num
  accelMag : Num
  temperature : Num
  deriving DecidableEq, Repr

/-- The AcquisitionEngine registers (R32) and the averaging registers (R34). -/
structure AcqRegs where
  devstat : DevStat
  idtry : BitVec 16
  fifocnt : BitVec 16
  intstat : Byte
  pkt : List Byte
  raw : RawFields
  rawt : BitVec 16
  stg : Sample
  avgn : BitVec 16
  avgi : BitVec 16
  acc : Sample
  deriving DecidableEq, Repr

/-! ### The command phase (R35 (e)) -/

/-- Where inside `BT_Write` (R152) the block stands: the primitive that comes next. -/
inductive WriteAt
  /-- The guarded `Start(sa, W)` of an attempt. -/
  | start
  /-- `Tx(reg)`. -/
  | reg
  /-- `Tx` of the next payload byte, or `Stop()` when none is left. -/
  | data
  /-- `Stop()` after a NACK in the address/register phase. -/
  | nackStop
  /-- `Stop()` after a payload NACK. -/
  | payloadStop
  deriving DecidableEq, Repr

/-- Where inside `BT_Read` (R153) the block stands: the primitive that comes next. -/
inductive ReadAt
  /-- The guarded `Start(sa, W)` of phase 1. -/
  | start1
  /-- `Tx(reg)`. -/
  | reg
  /-- `PollReady()`. -/
  | poll
  /-- `TimeoutRecovery()`. -/
  | timeout
  /-- `Stop()` of phase 1. -/
  | stop1
  /-- The guarded `Start(sa, R)` of phase 2. -/
  | start2
  /-- `Rx()`. -/
  | rx
  /-- The automatic stop. DESIGN CHOICE (log entry 5): a step of its own after the last `Rx()`. -/
  | stop2
  /-- `Stop()` after a NACK. -/
  | nackStop
  deriving DecidableEq, Repr

/-- Where inside a transaction procedure the block stands. -/
inductive XferAt
  | w (a : WriteAt)
  | r (a : ReadAt)
  deriving DecidableEq, Repr

/-- Which call of a transaction procedure is running: its place in the pseudocode. -/
inductive Site
  /-- `BT_Write` of WRB (R154). -/
  | wrb
  /-- `BT_Read` of RDB (R155). -/
  | rdb
  /-- `BT_Read` of RDBIT (R157). -/
  | rdbit
  /-- `BT_Read` of WRBF, WRBIT, DWBF (R159). -/
  | rmwRead
  /-- `BT_Write` of WRBF, WRBIT, DWBF (R159). -/
  | rmwWrite
  /-- The one `BT_Write` of DWB, SELBANK, SETADDR (R181, R183, R184). -/
  | devWrite
  /-- The bank select before a chunk write (R202). -/
  | upSelect
  /-- The start address before a chunk write (R202). -/
  | upAddr
  /-- The chunk write (R202). -/
  | upData
  /-- The bank select before a read-back (R202). -/
  | upVSelect
  /-- The start address before a read-back (R202). -/
  | upVAddr
  /-- The read-back (R202). -/
  | upVRead
  /-- The write of INT_ENABLE_VALUE (R209). -/
  | intEnable
  /-- The identity read (R233). -/
  | identity
  /-- The FIFO count read (R241). -/
  | fifoCount
  /-- The interrupt status read (R242). -/
  | intStatus
  /-- The read half of the FIFO-reset command (R242). -/
  | ovfRead
  /-- The write half of the FIFO-reset command (R242). -/
  | ovfWrite
  /-- The packet read (R243). -/
  | packet
  /-- The temperature read (R245). -/
  | temp
  deriving DecidableEq, Repr

/-- How a command is about to end: `succeed with RBIT` (R276) or `fail CODE cause C` (R275). -/
inductive Ending
  | succeed (rbit : Bool)
  | fail (code cause : Code)
  deriving DecidableEq, Repr

/-- The command phase: which primitive of the running command is next (R35 (e)). -/
inductive Phase
  /-- No command is running (BUSY = 0). -/
  | idle
  /-- The descriptor has been latched (R22); its checks come next. -/
  | accepted
  /-- The command itself is inside a transaction procedure. -/
  | cmd (k : Site) (x : XferAt)
  /-- The head of the record loop of `UploadImage` (R206). -/
  | image
  /-- The record at IPOS is inside a transaction procedure. -/
  | record (k : Site) (x : XferAt)
  /-- `UploadImage` has returned: `none` is Ok, `some c` is Fail(c). DESIGN CHOICE (log entry 5): taking that value is
  a step of its own. -/
  | imageDone (r : Option Code)
  /-- The ending of the command comes next. -/
  | ending (e : Ending)
  deriving DecidableEq, Repr

/-- The sequencer's control state: the phase, the payload buffer of the running transaction (R18, R26: bytes still to
send, bytes received), and the `verify` argument of the running `UploadImage`. -/
structure Seq where
  phase : Phase
  txbuf : List Byte
  rbuf : List Byte
  imgVerify : Bool
  deriving DecidableEq, Repr

/-! ### Memories -/

/-- A byte memory: (address, byte) cells with addresses strictly rising. An unlisted address has no value: nothing has
written that byte since reset (R71, R72). -/
abbrev Memory := List Host.Cell

/-! ### The environment (R90 to R95) -/

/-- RefDev, the reference device of R95, one possible environment. -/
structure RefDev where
  raddr : BitVec 7
  /-- REGS, 256 device registers (an unlisted register holds 0). -/
  regs : Memory
  ptr : Byte
  /-- Whether the next transmitted byte sets the register pointer. -/
  fresh : Bool
  mbank : BitVec 5
  maddr : Byte
  /-- MEM, 32 banks of 256 bytes at linear addresses bank*256 + offset (an unlisted byte holds 0). -/
  mem : Memory
  fifo : List Byte
  deriving DecidableEq, Repr

/-- ENV as the block meets it: for each question the answers it has ready, oldest first; behind them the reference
device, if there is one, and else free draws, numbered by `drawn` (R90). -/
structure Env where
  addr : List Answer
  tx : List Answer
  rx : List Byte
  ready : List Bool
  dev : Option RefDev
  drawn : Nat
  /-- The premise HardwareResolves (R93): ENV ends STP and BB as soon as the block is held at a Start or idle. -/
  resolves : Bool
  deriving DecidableEq, Repr

/-- A move of HOST or ENV that a run is given, or a turn of BLOCK (R16). -/
inductive Move
  /-- HOST writes host register `n` (R21, R22). -/
  | writeHR (n : Nat) (v : BitVec 64)
  /-- HOST reads host register `n`: no side effect (R21). -/
  | readHR (n : Nat)
  /-- `HostWritePBUF(i, v)` (R71). -/
  | writePBUF (i : Nat) (v : Byte)
  /-- `HostReadPBUF(i)` (R71). -/
  | readPBUF (i : Nat)
  /-- `HostWriteIMG(a, v)` (R72). -/
  | writeIMG (a : Nat) (v : Byte)
  /-- `.wait`: HOST reads STATUS until BUSY = 0 (R129). -/
  | wait
  /-- BLOCK takes its turn; if it is held, nothing happens. -/
  | block
  /-- ENV's StopComplete (R91). -/
  | stopComplete
  /-- ENV's ForeignBusy (R92). -/
  | foreignBusy
  /-- ENV's ForeignIdle (R92). -/
  | foreignIdle
  /-- RESET_BLOCK (R310). -/
  | resetBlock
  deriving DecidableEq, Repr

/-! ### The state -/

/-- The state of the machine. -/
structure State where
  /-- CFG (R7 to R12): carried here because a step has one argument; no step changes it (log entry 4). -/
  cfg : Cfg
  /-- CMDR, the descriptor latch behind CMD (R22). -/
  cmdr : Descriptor
  /-- STATUS.BUSY (R23). -/
  busy : Bool
  /-- RESULT (R24). -/
  result : Result
  /-- BusTransport (R26 to R29). -/
  bt : BusRegs
  /-- FirmwareProgrammer (R30, R31). -/
  fp : ProgRegs
  /-- AcquisitionEngine (R32, R34). -/
  ae : AcqRegs
  /-- SMP_STATUS bit 0 (R33). -/
  smpStatus : Bool
  /-- SMP0..SMP10 (R33). -/
  smp : Sample
  /-- PBUF (R71). -/
  pbuf : Memory
  /-- IMG (R72). -/
  img : Memory
  /-- TRACE, oldest event first (R85). -/
  trace : List Event
  /-- The command phase (R35 (e)). -/
  seq : Seq
  /-- How many RESET_BLOCK events there have been: which unspecified contents hold (log entry 7). -/
  epoch : Nat
  /-- The moves of HOST and ENV still to come, first one first (log entry 2). -/
  moves : List Move
  /-- ENV (R90; log entry 1). -/
  env : Env
  deriving DecidableEq, Repr

/-- Why the machine stops with a fault. -/
inductive Fault
  /-- Raised by a meaning that is run in a command phase that is not one of its own. No run of `step` from reset
  reaches such a state; the spec says nothing of it. Safe: the model stops (log entry 12). -/
  | noSuchPhase
  /-- Raised by HOST accessing a PBUF index at or above CFG.PBUF_SIZE: the address does not exist (R70). Safe. -/
  | pbufIndexOutside
  /-- Raised by HOST writing an IMG address at or above CFG.IMG_SIZE: the address does not exist (R70). Safe. -/
  | imgAddressOutside
  deriving DecidableEq, Repr

/-- Why the machine refuses. -/
inductive Refusal
  /-- Raised by an arm of `exec` that has no meaning yet; no arm is in that case. Safe. -/
  | notModelled (mnemonic : String)
  /-- Raised by HOST writing CMD, PBUF or IMG, or reading PBUF, while BUSY = 1: "in a model `refuse`" (U12). Safe. -/
  | hostMoveWhileBusy
  /-- Raised by HOST accessing a host register number above 19: "not a move of the model" (R21, U11). Safe. -/
  | noSuchHostRegister
  /-- Raised by a StopComplete, ForeignBusy or ForeignIdle that is not enabled (R91, R92). Safe. -/
  | envMoveNotEnabled
  /-- Raised by a step with a CFG outside the constraints of R312: "not a configuration of this block" (U13). Safe. -/
  | configurationOutOfRange
  deriving DecidableEq, Repr

/-! ### Reset (R37) -/

/-- The eleven number registers numbered from `j` after reset number `epoch`: unspecified (R37). -/
def Sample.unspecified (epoch j : Nat) : Sample where
  roll := .unspecified epoch j
  pitch := .unspecified epoch (j + 1)
  yaw := .unspecified epoch (j + 2)
  rollRate := .unspecified epoch (j + 3)
  pitchRate := .unspecified epoch (j + 4)
  yawRate := .unspecified epoch (j + 5)
  xAccel := .unspecified epoch (j + 6)
  yAccel := .unspecified epoch (j + 7)
  zAccel := .unspecified epoch (j + 8)
  accelMag := .unspecified epoch (j + 9)
  temperature := .unspecified epoch (j + 10)

/-- RESULT after reset: 0 (R37). -/
def Result.zero : Result := ⟨.ok, .ok, false, false⟩

/-- BusTransport after reset: 0 (R37). DESIGN CHOICE (log entry 6): the unspecified clock registers are 0. -/
def BusRegs.zero : BusRegs where
  sa := 0
  rega := 0
  cnt := 0
  bcnt := 0
  retry := false
  tmpb := 0
  clkpsc := 0
  clkl := 0
  clkh := 0
  initd := false
  mst := false
  trx := false
  rm := false
  qen := false
  irs := false
  bb := false
  stp := false
  ardy := false
  nack := false
  arbl := false

/-- FirmwareProgrammer after reset: 0 (R37). DESIGN CHOICE (log entry 6): the unspecified VBUF is CHUNK zero bytes. -/
def ProgRegs.zero (chunk : Nat) : ProgRegs where
  curbank := 0
  curoff := 0
  remain := 0
  srcptr := 0
  chunklen := 0
  verify := false
  vbuf := List.replicate chunk 0
  ipos := 0
  iend := 0

/-- The raw fields after reset. DESIGN CHOICE (log entry 6): unspecified, here 0. -/
def RawFields.zero : RawFields := ⟨0, 0, 0, 0, 0, 0, 0, 0, 0, 0⟩

/-- AcquisitionEngine after reset: Disconnected and 0 (R37). DESIGN CHOICE (log entry 6): the unspecified PKT, RAW
fields and RAWT are 0; STG and ACC are unspecified numbers. -/
def AcqRegs.zero (epoch : Nat) : AcqRegs where
  devstat := .disconnected
  idtry := 0
  fifocnt := 0
  intstat := 0
  pkt := List.replicate pktSize 0
  raw := RawFields.zero
  rawt := 0
  stg := Sample.unspecified epoch 11
  avgn := 0
  avgi := 0
  acc := Sample.unspecified epoch 22

/-- The sequencer after reset: no command is running (R310). -/
def Seq.idle : Seq := ⟨.idle, [], [], false⟩

/-- ENV with nothing prepared: every answer is a free draw. DESIGN CHOICE (log entry 3): HardwareResolves holds. -/
def Env.free : Env := ⟨[], [], [], [], none, 0, true⟩

/-- The block's own state after reset number `epoch` under configuration `c` (R37, R310), with no move to come and a
free environment. -/
def State.afterReset (c : Cfg) (epoch : Nat) : State where
  cfg := c
  cmdr := 0
  busy := false
  result := Result.zero
  bt := BusRegs.zero
  fp := ProgRegs.zero c.chunk
  ae := AcqRegs.zero epoch
  smpStatus := false
  smp := Sample.unspecified epoch 0
  pbuf := []
  img := []
  trace := []
  seq := Seq.idle
  epoch := epoch
  moves := []
  env := Env.free

/-- The machine right after reset (R37). -/
def State.reset : State := State.afterReset Cfg.suggested 0

end Sys2Proof.Machine
end

