-- ==== Sys2Proof/Machine/Operands.lean ====
section
/-! DEFINITION. The operand forms and the pure functions of the rules: bit fields (R14, R156), the bank-select byte
(R125), chunk lengths (R201), big-endian pairs and sign extension (R77, R243), operand legality (R121 (d)), and the
constraints on CFG (R312). -/

namespace Sys2Proof.Machine

/-! ### Bit fields -/

/-- `(1 << width) - 1` as a byte. -/
def lowOnes (width : Nat) : Byte := BitVec.ofNat 8 (2 ^ width - 1)

/-- The shift `8 - start - width` of a BitField, whose start index counts from the most significant bit (R14). -/
def fieldShift (start width : Nat) : Nat := 8 - start - width

/-- `FieldMask(start, width)` (R14). -/
def fieldMask (start width : Nat) : Byte := lowOnes width <<< fieldShift start width

/-- `FieldInsert(old, start, width, value)` (R156). -/
def fieldInsert (old : Byte) (start width : Nat) (value : Byte) : Byte :=
  (old &&& ~~~ fieldMask start width) ||| ((value &&& lowOnes width) <<< fieldShift start width)

/-- `FieldBit(old, bit)` (R156). -/
def fieldBit (old : Byte) (bit : Nat) : Bool := old.getLsbD (7 - bit)

/-- Whether a BitField operand is legal: 1 ≤ WIDTH ≤ 8 and START + WIDTH ≤ 8 (R159). -/
def fieldLegal (start : BitVec 3) (width : BitVec 4) : Bool :=
  1 ≤ width.toNat && width.toNat ≤ 8 && start.toNat + width.toNat ≤ 8

/-! ### Other operand forms -/

/-- `BankByte(bank, pf, ub)` (R125). -/
def bankByte (bank : BitVec 5) (pf ub : BitVec 1) : Byte :=
  (pf.setWidth 8 <<< 6) ||| (ub.setWidth 8 <<< 5) ||| bank.setWidth 8

/-- `ChunkLen(remain, off)` (R201). -/
def chunkLen (chunk remain off : Nat) : Nat := min chunk (min remain (bankSize - off))

/-- The linear DMEM address of a bank and an offset (R74, R81). -/
def linearAddr (bank off : Nat) : Nat := bank * bankSize + off

/-- Whether `size` bytes from (bank, offset) stay inside DMEM (R203, R255: in unbounded integers). -/
def insideDmem (bank off size : Nat) : Bool := linearAddr bank off + size ≤ bankCount * bankSize

/-- Whether `size` bytes from `src` stay inside IMG (R203, R207). -/
def insideImg (c : Cfg) (src size : Nat) : Bool := src + size ≤ c.imgSize

/-- `hi << 8 | lo` (R77 (b)). -/
def pair (hi lo : Byte) : BitVec 16 := hi ++ lo

/-- `sext_16` (R13, R243). -/
def sext16 (v : BitVec 16) : Int := v.toInt

/-- The byte at index `i` of a received buffer; a rule reads only indices that were received (log entry 12). -/
def byteAt (buf : List Byte) (i : Nat) : Byte := buf.getD i 0

/-- The pair at index `i` of a buffer, high byte first (R77 (b), (c)). -/
def pairAt (buf : List Byte) (i : Nat) : BitVec 16 := pair (byteAt buf i) (byteAt buf (i + 1))

/-- The ten raw fields of a packet at CFG.PKT_OFF (R243). -/
def rawFields (o : PktOff) (pkt : List Byte) : RawFields where
  qw := pairAt pkt o.qw
  qx := pairAt pkt o.qx
  qy := pairAt pkt o.qy
  qz := pairAt pkt o.qz
  ax := pairAt pkt o.ax
  ay := pairAt pkt o.ay
  az := pairAt pkt o.az
  gx := pairAt pkt o.gx
  gy := pairAt pkt o.gy
  gz := pairAt pkt o.gz

/-- The overflow condition: the flag OR the threshold (R242). -/
def fifoOverflowed (c : Cfg) (intstat : Byte) (fifocnt : BitVec 16) : Bool :=
  intstat &&& c.dev.fifoOflowMask != 0 || c.fifoOvfThreshold ≤ fifocnt.toNat

/-! ### Codes -/

/-- The number of a result code (R271). -/
def Code.toByte : Code → Byte
  | .ok => 0x00
  | .busTimeout => 0x01
  | .busNack => 0x02
  | .arbLost => 0x03
  | .deviceNotResponding => 0x04
  | .dmpInitFailed => 0x05
  | .fwUploadFailed => 0x06
  | .illegalCommand => 0x07
  | .illegalOperand => 0x08
  | .notReady => 0x09
  | .verifyMismatch => 0x0A
  | .badSpecialOpcode => 0x0B
  | .imageMalformed => 0x0C

/-- The number of a DeviceStatus (R23). -/
def DevStat.toBits : DevStat → BitVec 2
  | .disconnected => 0
  | .connected => 1
  | .dmpReady => 2

/-! ### CFG -/

/-- `add`, with the law `add(ofInt 0, x) = x` (R11). -/
def numAdd (a b : Num) : Num := if a = .ofInt 0 then b else .add a b

/-- `div`, with the law `div(x, ofInt 1) = x` (R11). -/
def numDiv (a b : Num) : Num := if b = .ofInt 1 then a else .div a b

/-- A number with the two laws of R11 applied wherever they apply, from the inside out. -/
def reduceNum : Num → Num
  | .ofInt i => .ofInt i
  | .ofDec m e => .ofDec m e
  | .add a b => numAdd (reduceNum a) (reduceNum b)
  | .sub a b => .sub (reduceNum a) (reduceNum b)
  | .mul a b => .mul (reduceNum a) (reduceNum b)
  | .div a b => numDiv (reduceNum a) (reduceNum b)
  | .sqrt a => .sqrt (reduceNum a)
  | .rad2deg a => .rad2deg (reduceNum a)
  | .gravity k q => .gravity k q
  | .ypr k q gx gy gz => .ypr k q (reduceNum gx) (reduceNum gy) (reduceNum gz)
  | .unspecified e j => .unspecified e j

/-- Whether a number is a literal of value zero. -/
def isLiteralZero : Num → Bool
  | .ofInt i => i == 0
  | .ofDec m _ => m == 0
  | .add _ _ | .sub _ _ | .mul _ _ | .div _ _ | .sqrt _ | .rad2deg _ => false
  | .gravity _ _ | .ypr _ _ _ _ _ | .unspecified _ _ => false

/-- Whether a number is zero by the laws of R11: they make it a literal of value zero. Of an uninterpreted number
nothing more can be told (R256, log entry 19). -/
def isZero (n : Num) : Bool := isLiteralZero (reduceNum n)

/-- Whether every offset of CFG.PKT_OFF is at most 40 (R312). -/
def pktOffLegal (o : PktOff) : Bool :=
  [o.qw, o.qx, o.qy, o.qz, o.gx, o.gy, o.gz, o.ax, o.ay, o.az].all (· ≤ 40)

/-- The constraints of R312 on CFG. -/
def cfgLegal (c : Cfg) : Bool :=
  (1 ≤ c.chunk && c.chunk ≤ 256) && (1 ≤ c.idRetryMax && c.idRetryMax ≤ 65535) && 1 ≤ c.pollCeiling &&
  (c.dmpImgBase.toNat + c.dmpImgLen.toNat ≤ c.imgSize && c.imgSize ≤ 65536) &&
  (1 ≤ c.pbufSize && c.pbufSize ≤ 65535) &&
  !isZero c.gyroSens && !isZero c.tempSlopeDiv && !isZero c.accelLsbPerG &&
  pktOffLegal c.pktOff && (43 ≤ c.fifoOvfThreshold && c.fifoOvfThreshold ≤ 65535)

end Sys2Proof.Machine
end

