-- ==== Sys2Proof/Machine/Numerics.lean ====
section
/-! DEFINITION. The numerics of the sample path (R11, R244 to R246, R250, R256), over the uninterpreted numbers `Num`. -/

namespace Sys2Proof.Machine

/-- A signed raw field as a number: `ofInt` of the sign-extended field (R256). -/
def ofRaw (v : BitVec 16) : Num := .ofInt (sext16 v)

/-- TEMP_OFFSET_C, 36.53 (R6). -/
def tempOffset : Num := .ofDec 3653 2

/-- The temperature in degrees Fahrenheit from its raw value (R245). -/
def tempF (c : Cfg) (rawt : BitVec 16) : Num :=
  let tempC := numAdd (numDiv (ofRaw rawt) c.tempSlopeDiv) tempOffset
  numAdd (numDiv (.mul tempC (.ofInt 9)) (.ofInt 5)) (.ofInt 32)

/-- A linear acceleration in g: the raw field over CFG.ACCEL_LSB_PER_G, gravity subtracted (R244). -/
def linearAccel (c : Cfg) (v : BitVec 16) (g : Num) : Num := .sub (numDiv (ofRaw v) c.accelLsbPerG) g

/-- The Euclidean norm, summed left to right (R244). -/
def norm3 (x y z : Num) : Num := .sqrt (numAdd (numAdd (.mul x x) (.mul y y)) (.mul z z))

/-- An angular velocity in degrees per second (R244). -/
def angularRate (c : Cfg) (v : BitVec 16) : Num := numDiv (ofRaw v) c.gyroSens

/-- The staged sample from the raw fields and the raw temperature (R244 to R246). -/
def stageSample (c : Cfg) (r : RawFields) (rawt : BitVec 16) : Sample :=
  let q : Quat := ⟨r.qw, r.qx, r.qy, r.qz⟩
  let gvx : Num := .gravity .x q
  let gvy : Num := .gravity .y q
  let gvz : Num := .gravity .z q
  let ax := linearAccel c r.ax gvx
  let ay := linearAccel c r.ay gvy
  let az := linearAccel c r.az gvz
  { roll := .rad2deg (.ypr .roll q gvx gvy gvz)
    pitch := .rad2deg (.ypr .pitch q gvx gvy gvz)
    yaw := .rad2deg (.ypr .yaw q gvx gvy gvz)
    rollRate := angularRate c r.gx
    pitchRate := angularRate c r.gy
    yawRate := angularRate c r.gz
    xAccel := ax
    yAccel := ay
    zAccel := az
    accelMag := norm3 ax ay az
    temperature := tempF c rawt }

/-- One operation on each of the eleven fields (R260). -/
def Sample.zipWith (f : Num → Num → Num) (a b : Sample) : Sample where
  roll := f a.roll b.roll
  pitch := f a.pitch b.pitch
  yaw := f a.yaw b.yaw
  rollRate := f a.rollRate b.rollRate
  pitchRate := f a.pitchRate b.pitchRate
  yawRate := f a.yawRate b.yawRate
  xAccel := f a.xAccel b.xAccel
  yAccel := f a.yAccel b.yAccel
  zAccel := f a.zAccel b.zAccel
  accelMag := f a.accelMag b.accelMag
  temperature := f a.temperature b.temperature

/-- The same number in each of the eleven fields. -/
def Sample.const (n : Num) : Sample := ⟨n, n, n, n, n, n, n, n, n, n, n⟩

/-- `ACC[j] <- ofInt(0)` (R250). -/
def accZero : Sample := Sample.const (.ofInt 0)

/-- `ACC[j] <- ACC[j] + STG[j]` (R250). -/
def accAdd (acc stg : Sample) : Sample := Sample.zipWith numAdd acc stg

/-- `ACC[j] / ofInt(AVGN)` (R250). -/
def accMean (acc : Sample) (n : BitVec 16) : Sample := Sample.zipWith numDiv acc (Sample.const (.ofInt n.toNat))

/-! ### Instantiations of CFG.NUM and CFG.OM -/

/-- An instantiation of the numerics record and of OrientationMath (R11, R12) on a type `α` of numbers. -/
structure NumModel (α : Type) where
  ofInt : Int → α
  ofDec : Int → Nat → α
  add : α → α → α
  sub : α → α → α
  mul : α → α → α
  div : α → α → α
  sqrt : α → α
  rad2deg : α → α
  gravity : Axis → Quat → α
  ypr : Angle → Quat → α → α → α → α
  unspecified : Nat → Nat → α

/-- The number a term stands for under an instantiation. -/
def numEval {α : Type} (m : NumModel α) : Num → α
  | .ofInt i => m.ofInt i
  | .ofDec d e => m.ofDec d e
  | .add a b => m.add (numEval m a) (numEval m b)
  | .sub a b => m.sub (numEval m a) (numEval m b)
  | .mul a b => m.mul (numEval m a) (numEval m b)
  | .div a b => m.div (numEval m a) (numEval m b)
  | .sqrt a => m.sqrt (numEval m a)
  | .rad2deg a => m.rad2deg (numEval m a)
  | .gravity k q => m.gravity k q
  | .ypr k q gx gy gz => m.ypr k q (numEval m gx) (numEval m gy) (numEval m gz)
  | .unspecified e j => m.unspecified e j

/-- The named properties a model may assume of CFG.NUM (R11). -/
structure NumModel.Lawful {α : Type} (m : NumModel α) : Prop where
  add_zero_left : ∀ x, m.add (m.ofInt 0) x = x
  div_one_right : ∀ x, m.div x (m.ofInt 1) = x

end Sys2Proof.Machine
end

