-- ==== Sys2Proof/Syntax.lean ====
section
/-! DEFINITION. The instructions of the BMSD block: the fifteen host commands (R118) and the two record kinds of a
firmware image (R124), one constructor per row of the opcode table, with the operands of the encoding formats R111 to
R117 and R123. -/

namespace Sys2Proof

/-- An instruction: a host command with the operand fields of its descriptor, or an image record. -/
inductive Instr
  /-- INIT (R141), format N. -/
  | init
  /-- WRB sa, reg, cnt (R154), format T. -/
  | wrb (sa : BitVec 7) (reg : Byte) (cnt : BitVec 16)
  /-- RDB sa, reg, cnt (R155), format T. -/
  | rdb (sa : BitVec 7) (reg : Byte) (cnt : BitVec 16)
  /-- RDBIT sa, reg, bit (R157), format B with V = 0. -/
  | rdbit (sa : BitVec 7) (reg : Byte) (bit : BitVec 3)
  /-- WRBIT sa, reg, bit, v (R158), format B. -/
  | wrbit (sa : BitVec 7) (reg : Byte) (bit : BitVec 3) (v : BitVec 1)
  /-- WRBF sa, reg, start, width, value (R159), format F. -/
  | wrbf (sa : BitVec 7) (reg : Byte) (start : BitVec 3) (width : BitVec 4) (value : Byte)
  /-- DWB reg, value (R181), format D. -/
  | dwb (reg : Byte) (value : Byte)
  /-- DWBF reg, start, width, value (R182), format D. -/
  | dwbf (reg : Byte) (start : BitVec 3) (width : BitVec 4) (value : Byte)
  /-- SELBANK bank, PF, UB (R183), format D. -/
  | selbank (bank : BitVec 5) (pf ub : BitVec 1)
  /-- SETADDR offs (R184), format D. -/
  | setaddr (offs : Byte)
  /-- UPBLK src, size, bank, offs, V (R203), format U. -/
  | upblk (v : BitVec 1) (bank : BitVec 5) (offs : Byte) (size src : BitVec 16)
  /-- UPIMG src, len, V (R207), format U. -/
  | upimg (v : BitVec 1) (len src : BitVec 16)
  /-- SETUP (R232), format N. -/
  | setup
  /-- RDSMP (R240), format N. -/
  | rdsmp
  /-- RDAVG n (R250), format A. -/
  | rdavg (n : BitVec 16)
  /-- REC_DATA (R208): an image record with its bank, offset and data bytes; the length byte is the number of them. -/
  | recData (bank offs : Byte) (data : List Byte)
  /-- REC_SPC_INTEN (R209): the special record 0x01; its bank and offset bytes mean nothing. -/
  | recSpcInten (bank offs : Byte)
  deriving DecidableEq, Repr

namespace Instr

/-- Whether an instruction is one of the fifteen host commands; the other two are image records (R118, R124). -/
def isCommand : Instr → Bool
  | init => true
  | wrb _ _ _ => true
  | rdb _ _ _ => true
  | rdbit _ _ _ => true
  | wrbit _ _ _ _ => true
  | wrbf _ _ _ _ _ => true
  | dwb _ _ => true
  | dwbf _ _ _ _ => true
  | selbank _ _ _ => true
  | setaddr _ => true
  | upblk _ _ _ _ _ => true
  | upimg _ _ _ => true
  | setup => true
  | rdsmp => true
  | rdavg _ => true
  | recData _ _ _ => false
  | recSpcInten _ _ => false

end Instr

end Sys2Proof
end

