-- ==== Sys2Proof/WellFormed.lean ====
section
/-! DEFINITION. Which instructions can be written in the encodings of `30_encoding.md`. The operand types already hold
every command's fields to their widths; only a data record's length byte (1..255, R123) is left to check. An operand
that decodes but is not legal (R121 (d)) is well formed: the command takes it and ends with ILLEGAL_OPERAND. -/

namespace Sys2Proof

/-- The data of a data record is not empty: length byte 0 selects a special record (R123). -/
def dataNotEmpty (data : List Byte) : Bool := 1 ≤ data.length

/-- The data of a data record fits its one length byte (R123). -/
def dataFitsLengthByte (data : List Byte) : Bool := data.length ≤ 255

/-- Whether an instruction has an encoding (R110 to R117, R123). -/
def Instr.wellFormed : Instr → Bool
  | .recData _ _ data => dataNotEmpty data && dataFitsLengthByte data
  | .init | .wrb _ _ _ | .rdb _ _ _ | .rdbit _ _ _ | .wrbit _ _ _ _ | .wrbf _ _ _ _ _ => true
  | .dwb _ _ | .dwbf _ _ _ _ | .selbank _ _ _ | .setaddr _ => true
  | .upblk _ _ _ _ _ | .upimg _ _ _ | .setup | .rdsmp | .rdavg _ | .recSpcInten _ _ => true

end Sys2Proof
end

