-- ==== Sys2Proof/Decode.lean ====
section
/-! DEFINITION. Decoding and encoding, both written from the tables of `30_encoding.md`: the opcode map R118 as a list
of rows with mask and match, the descriptor formats R111 to R117, the image records R123 and R124. Decoding is total:
what is no instruction is rejected by name. -/

namespace Sys2Proof

/-! ### Descriptors -/

/-- Why bits are no instruction. -/
inductive DecodeError
  /-- The opcode byte is reserved (R121 (a)). -/
  | reservedOpcode (opc : Byte)
  /-- A defined opcode with a non-zero bit in a must-be-zero position (R121 (b)). -/
  | mustBeZeroBitSet (opc : Byte)
  /-- Fewer than the three header bytes of a record are left (R211). -/
  | headerCutShort
  /-- A data record's bytes would pass the end (R211). -/
  | dataCutShort
  /-- A special record's opcode byte is missing (R211). -/
  | opcodeCutShort
  /-- A special record with an opcode other than 0x01 (R210). -/
  | badSpecialOpcode (opc : Byte)
  /-- Bytes left over after the one record that was to be decoded. -/
  | trailingBytes
  deriving DecidableEq, Repr

/-- The field `d[hi:lo]` of `w = hi - lo + 1` bits (R13). -/
abbrev field (d : Descriptor) (lo w : Nat) : BitVec w := d.extractLsb' lo w

/-- A row of the opcode map R118: `build` takes the operand fields by their bit positions. -/
structure Row where
  mnemonic : String
  mtch : Descriptor
  mask : Descriptor
  build : Descriptor → Instr

/-- Whether a descriptor selects the row: `d & mask = match` (R118). -/
def Row.selects (r : Row) (d : Descriptor) : Bool := d &&& r.mask == r.mtch

/-- The opcode map R118, with the operand fields of formats N (R111), T (R112), B (R113), F (R114), D (R115), U (R116)
and A (R117). -/
def rows : List Row :=
  [ ⟨"INIT", 0x0100000000000000, 0xFFFFFFFFFFFFFFFF, fun _ => .init⟩,
    ⟨"WRB", 0x0200000000000000, 0xFF80000000FFFFFF, fun d => .wrb (field d 48 7) (field d 40 8) (field d 24 16)⟩,
    ⟨"RDB", 0x0300000000000000, 0xFF80000000FFFFFF, fun d => .rdb (field d 48 7) (field d 40 8) (field d 24 16)⟩,
    ⟨"RDBIT", 0x0400000000000000, 0xFF80001FFFFFFFFF,
      fun d => .rdbit (field d 48 7) (field d 40 8) (field d 37 3)⟩,
    ⟨"WRBIT", 0x0500000000000000, 0xFF80001FFEFFFFFF,
      fun d => .wrbit (field d 48 7) (field d 40 8) (field d 37 3) (field d 24 1)⟩,
    ⟨"WRBF", 0x0600000000000000, 0xFF80001000FFFFFF,
      fun d => .wrbf (field d 48 7) (field d 40 8) (field d 37 3) (field d 32 4) (field d 24 8)⟩,
    ⟨"DWB", 0x1000000000000000, 0xFFFF00FF00FFFFFF, fun d => .dwb (field d 40 8) (field d 24 8)⟩,
    ⟨"DWBF", 0x1100000000000000, 0xFFFF001000FFFFFF,
      fun d => .dwbf (field d 40 8) (field d 37 3) (field d 32 4) (field d 24 8)⟩,
    ⟨"SELBANK", 0x1200000000000000, 0xFFFFFFFCE0FFFFFF,
      fun d => .selbank (field d 24 5) (field d 33 1) (field d 32 1)⟩,
    ⟨"SETADDR", 0x1300000000000000, 0xFFFFFFFF00FFFFFF, fun d => .setaddr (field d 24 8)⟩,
    ⟨"UPBLK", 0x2000000000000000, 0xFF600000000000FF,
      fun d => .upblk (field d 55 1) (field d 48 5) (field d 40 8) (field d 24 16) (field d 8 16)⟩,
    ⟨"UPIMG", 0x2100000000000000, 0xFF7FFF00000000FF,
      fun d => .upimg (field d 55 1) (field d 24 16) (field d 8 16)⟩,
    ⟨"SETUP", 0x3000000000000000, 0xFFFFFFFFFFFFFFFF, fun _ => .setup⟩,
    ⟨"RDSMP", 0x3100000000000000, 0xFFFFFFFFFFFFFFFF, fun _ => .rdsmp⟩,
    ⟨"RDAVG", 0x3200000000000000, 0xFFFFFF0000FFFFFF, fun d => .rdavg (field d 24 16)⟩ ]

/-- The opcode field OPC, bits 63:56 (R110). -/
def opcodeOf (d : Descriptor) : Byte := field d 56 8

/-- Whether some row of the opcode map has this opcode (R121 (a) lists the others). -/
def opcodeDefined (opc : Byte) : Bool := rows.any fun r => opcodeOf r.mtch == opc

/-- Decode of a descriptor: the row it selects, or the reason why it is ILLEGAL_COMMAND (R119, R121). -/
def decodeDescriptor (d : Descriptor) : Except DecodeError Instr :=
  match rows.find? (fun r => r.selects d) with
  | some r => .ok (r.build d)
  | none =>
    if opcodeDefined (opcodeOf d) then .error (.mustBeZeroBitSet (opcodeOf d))
    else .error (.reservedOpcode (opcodeOf d))

/-! ### Image records -/

/-- Decode of the record at the head of a byte sequence: the record and the bytes after it (R123, R124). -/
def decodeRecord : List Byte → Except DecodeError (Instr × List Byte)
  | b :: o :: l :: rest =>
    if l = 0 then
      match rest with
      | [] => .error .opcodeCutShort
      | opc :: rest' => if opc = 0x01 then .ok (.recSpcInten b o, rest') else .error (.badSpecialOpcode opc)
    else if rest.length < l.toNat then .error .dataCutShort
    else .ok (.recData b o (rest.take l.toNat), rest.drop l.toNat)
  | _ => .error .headerCutShort

/-! ### The encoder -/

/-- The two kinds of words an instruction is written in: a descriptor (R110) or the bytes of a record (R123). -/
inductive Encoded
  | descriptor (d : Descriptor)
  | record (bytes : List Byte)
  deriving DecidableEq, Repr

/-- A field of `w` bits placed with its lowest bit at bit `lo` (R13). -/
def put {w : Nat} (x : BitVec w) (lo : Nat) : Descriptor := x.setWidth 64 <<< lo

/-- The encoding of an instruction, from the layouts of R111 to R117 and R123. -/
def encode : Instr → Encoded
  | .init => .descriptor (put 0x01#8 56)
  | .wrb sa reg cnt => .descriptor (put 0x02#8 56 ||| put sa 48 ||| put reg 40 ||| put cnt 24)
  | .rdb sa reg cnt => .descriptor (put 0x03#8 56 ||| put sa 48 ||| put reg 40 ||| put cnt 24)
  | .rdbit sa reg bit => .descriptor (put 0x04#8 56 ||| put sa 48 ||| put reg 40 ||| put bit 37)
  | .wrbit sa reg bit v => .descriptor (put 0x05#8 56 ||| put sa 48 ||| put reg 40 ||| put bit 37 ||| put v 24)
  | .wrbf sa reg start width value =>
    .descriptor (put 0x06#8 56 ||| put sa 48 ||| put reg 40 ||| put start 37 ||| put width 32 ||| put value 24)
  | .dwb reg value => .descriptor (put 0x10#8 56 ||| put reg 40 ||| put value 24)
  | .dwbf reg start width value =>
    .descriptor (put 0x11#8 56 ||| put reg 40 ||| put start 37 ||| put width 32 ||| put value 24)
  | .selbank bank pf ub => .descriptor (put 0x12#8 56 ||| put pf 33 ||| put ub 32 ||| put bank 24)
  | .setaddr offs => .descriptor (put 0x13#8 56 ||| put offs 24)
  | .upblk v bank offs size src =>
    .descriptor (put 0x20#8 56 ||| put v 55 ||| put bank 48 ||| put offs 40 ||| put size 24 ||| put src 8)
  | .upimg v len src => .descriptor (put 0x21#8 56 ||| put v 55 ||| put len 24 ||| put src 8)
  | .setup => .descriptor (put 0x30#8 56)
  | .rdsmp => .descriptor (put 0x31#8 56)
  | .rdavg n => .descriptor (put 0x32#8 56 ||| put n 24)
  | .recData bank offs data => .record (bank :: offs :: BitVec.ofNat 8 data.length :: data)
  | .recSpcInten bank offs => .record [bank, offs, 0x00, 0x01]

/-- Decode of a whole encoding: a descriptor, or the bytes of exactly one record. -/
def decode : Encoded → Except DecodeError Instr
  | .descriptor d => decodeDescriptor d
  | .record bytes =>
    match decodeRecord bytes with
    | .ok (i, []) => .ok i
    | .ok (_, _ :: _) => .error .trailingBytes
    | .error e => .error e

/-! ### The opcode table's numbering of bits -/

/-- The longest image record: three header bytes and 255 data bytes (R123). -/
def longestRecord : Nat := 258

/-- The `k` low bytes of `w`, the most significant first: the table writes a record with its first byte leftmost
(log entry 11). -/
def bytesOf : Nat → Nat → List Byte
  | 0, _ => []
  | k + 1, w => BitVec.ofNat 8 (w >>> (8 * k)) :: bytesOf k w

/-- The size in bytes of the record that begins with these bytes: 4 for a special record, `3 + L` for a data record
(R123). -/
def recordSize (bytes : List Byte) : Nat := if bytes.getD 2 0 = 0 then 4 else 3 + (bytes.getD 2 0).toNat

/-- The bytes of a record whose first `nbits` bits are `w`, with zeros after them up to the record's size. -/
def recordBytes (nbits w : Nat) : List Byte :=
  let bytes := bytesOf (nbits / 8) w
  bytes ++ List.replicate (recordSize bytes - bytes.length) 0

/-- The instruction the decoder reads from `nbits` bits `w` as the opcode table numbers them: 64 bits are a
descriptor, any other number is the head of an image record. -/
def decodeTableWord (nbits w : Nat) : Option Instr :=
  if nbits = 64 then (decodeDescriptor (BitVec.ofNat 64 w)).toOption
  else (decodeRecord (recordBytes nbits w)).toOption.map Prod.fst

end Sys2Proof
end

