-- ==== Sys2Proof/Machine/Flags.lean ====
section
/-! DEFINITION. The flag and mode-bit computations of BusTransport (R27 to R29, R141 to R149, R151) and the register
words that show them to the host (R23, R24). -/

namespace Sys2Proof.Machine

/-- NACK, ARBL and ARDY cleared, as before every Start (R160). -/
def clearSticky (b : BusRegs) : BusRegs := { b with nack := false, arbl := false, ardy := false }

/-- What an answer does to the flags: NACK sets NACK, ARBLOST sets ARBL and ends master mode (R144, R145). -/
def noteAnswer (a : Answer) (b : BusRegs) : BusRegs :=
  match a with
  | .ack => b
  | .nack => { b with nack := true }
  | .arblost => { b with arbl := true, mst := false }

/-- The mode bits and BB at a START (R144). -/
def startModes (dir : Dir) (b : BusRegs) : BusRegs :=
  { b with mst := true, trx := decide (dir = .write), bb := true }

/-- The hardware byte counter after one byte (R145, R146). -/
def countDown (b : BusRegs) : BusRegs := { b with bcnt := b.bcnt - 1 }

/-- The byte counter after a transmitted byte: it counts only in non-repeat mode (R145). -/
def countTx (b : BusRegs) : BusRegs := if b.rm then b else countDown b

/-- STP and TRX when a stop is requested (R148). -/
def stopModes (b : BusRegs) : BusRegs := { b with stp := true, trx := false }

/-- `BusReset()` on the registers (R142). -/
def busResetRegs (b : BusRegs) : BusRegs :=
  { b with
    irs := false, initd := false, bb := false, stp := false, ardy := false, nack := false, arbl := false,
    mst := false, trx := false, rm := false, bcnt := 0, retry := false }

/-- `BusInit()` on the registers (R141). -/
def busInitRegs (c : Cfg) (b : BusRegs) : BusRegs :=
  { b with
    clkpsc := c.clkPsc, clkl := c.clkLow, clkh := c.clkHigh, qen := false, mst := true, trx := false, rm := false,
    irs := true, initd := true }

/-- StopComplete's effect on the flags (R91). -/
def stopCompleteFlags (b : BusRegs) : BusRegs := { b with stp := false, bb := false }

/-! ### Register words -/

/-- One bit at a position of a 32-bit register word. -/
def bitAt (v : Bool) (pos : Nat) : BitVec 32 := (BitVec.ofBool v).setWidth 32 <<< pos

/-- STATUS (HR1, R23). -/
def statusWord (s : State) : BitVec 32 :=
  bitAt s.busy 0 ||| bitAt s.bt.initd 1 ||| (s.ae.devstat.toBits.setWidth 32 <<< 2) ||| bitAt s.bt.bb 4 |||
  bitAt s.bt.stp 5 ||| bitAt s.bt.ardy 6 ||| bitAt s.bt.nack 7 ||| bitAt s.bt.arbl 8 ||| bitAt s.bt.mst 9 |||
  bitAt s.bt.trx 10 ||| bitAt s.bt.rm 11 ||| bitAt s.bt.qen 12 ||| bitAt s.bt.irs 13

/-- RESULT (HR2, R24): while BUSY = 1 it reads as zero. -/
def resultWord (s : State) : BitVec 32 :=
  if s.busy then 0
  else
    s.result.code.toByte.setWidth 32 ||| (s.result.cause.toByte.setWidth 32 <<< 8) ||| bitAt s.result.rbit 16 |||
    bitAt s.result.valid 17

end Sys2Proof.Machine
end

