-- ==== Sys2Proof/Machine/Environment.lean ====
section
/-! DEFINITION. Byte memories, and the environment ENV (R90): its four questions, answered from what it has ready, else
by the reference device RefDev (R95), else by a free draw. -/

namespace Sys2Proof.Machine

/-! ### Byte memories -/

/-- The byte at an address, if something has written it. -/
def Memory.read : Memory → Nat → Option Byte
  | [], _ => none
  | (k, v) :: m, a => if k = a then some v else Memory.read m a

/-- Write one byte; the addresses stay strictly rising. -/
def Memory.write : Memory → Nat → Byte → Memory
  | [], a, b => [(a, b)]
  | (k, v) :: m, a, b =>
    if a < k then (a, b) :: (k, v) :: m
    else if a = k then (a, b) :: m
    else (k, v) :: Memory.write m a b

/-- Write bytes at consecutive addresses, the first byte lowest (R77 (a)). -/
def Memory.writeAll : Memory → Nat → List Byte → Memory
  | m, _, [] => m
  | m, a, b :: bs => Memory.writeAll (Memory.write m a b) (a + 1) bs

/-- Take the cell of an address out. -/
def Memory.erase : Memory → Nat → Memory
  | [], _ => []
  | (k, v) :: m, a => if k = a then m else (k, v) :: Memory.erase m a

/-- The canonical form: addresses strictly rising. (An unlisted address has no value, so no cell can equal what an
unlisted address reads as.) -/
def Memory.wf : Memory → Bool
  | [] => true
  | [_] => true
  | (a, _) :: (b, v) :: m => decide (a < b) && Memory.wf ((b, v) :: m)

/-! ### RefDev (R95) -/

/-- A byte of a RefDev memory: one nothing has set is 0 (log entry 14). -/
def RefDev.peek (m : Memory) (a : Nat) : Byte := (Memory.read m a).getD 0

/-- Set a byte of a RefDev memory; a zero byte is not listed. -/
def RefDev.poke (m : Memory) (a : Nat) (b : Byte) : Memory := if b = 0 then Memory.erase m a else Memory.write m a b

/-- The linear address of RefDev's current memory position. -/
def RefDev.memPos (r : RefDev) : Nat := linearAddr r.mbank.toNat r.maddr.toNat

/-- The register pointer after one byte: it stays at the data ports (R95). -/
def RefDev.advance (d : DevTable) (r : RefDev) : RefDev :=
  if r.ptr = d.raMemRW ∨ r.ptr = d.raFifoRW then r else { r with ptr := r.ptr + 1 }

/-- `DevWrite(a, b)` (R95). -/
def RefDev.devWrite (d : DevTable) (r : RefDev) (a b : Byte) : RefDev :=
  if a = d.raMemRW then { r with mem := RefDev.poke r.mem r.memPos b, maddr := r.maddr + 1 }
  else
    let r := if a = d.raBankSel then { r with mbank := b.setWidth 5 } else r
    let r := if a = d.raMemStartAddr then { r with maddr := b } else r
    let resetBit := fieldMask d.fifoResetStart.toNat 1
    if a = d.raUserCtrl ∧ b &&& resetBit ≠ 0 then
      let flags := RefDev.peek r.regs d.raIntStatus.toNat &&& ~~~ d.fifoOflowMask
      let regs := RefDev.poke r.regs d.raIntStatus.toNat flags
      { r with fifo := [], regs := RefDev.poke regs a.toNat (b &&& ~~~ resetBit) }
    else { r with regs := RefDev.poke r.regs a.toNat b }

/-- `DevRead(a)`: the byte and the device after it (R95). -/
def RefDev.devRead (d : DevTable) (r : RefDev) (a : Byte) : Byte × RefDev :=
  if a = d.raMemRW then (RefDev.peek r.mem r.memPos, { r with maddr := r.maddr + 1 })
  else if a = d.raFifoRW then (r.fifo.headD 0xFF, { r with fifo := r.fifo.tail })
  else if a = d.raFifoCountH then (BitVec.ofNat 8 (r.fifo.length / 256), r)
  else if a = d.raFifoCountH + 1 then (BitVec.ofNat 8 r.fifo.length, r)
  else (RefDev.peek r.regs a.toNat, r)

/-- RefDev's answer to an address byte: its own address is acknowledged (R95). -/
def RefDev.addrAnswer (r : RefDev) (sa : BitVec 7) : Answer := if sa = r.raddr then .ack else .nack

/-- RefDev after an address byte: an acknowledged write makes the next byte the register pointer (R95). -/
def RefDev.addressed (r : RefDev) (dir : Dir) (a : Answer) : RefDev :=
  if dir = .write ∧ a = .ack then { r with fresh := true } else r

/-- RefDev after a transmitted byte that was acknowledged (R95). -/
def RefDev.took (d : DevTable) (r : RefDev) (b : Byte) : RefDev :=
  if r.fresh then { r with ptr := b, fresh := false } else RefDev.advance d (RefDev.devWrite d r r.ptr b)

/-- RefDev after a transmitted byte with its answer: a byte that was not acknowledged is not taken. -/
def RefDev.transmitted (d : DevTable) (r : RefDev) (b : Byte) (a : Answer) : RefDev :=
  if a = .ack then RefDev.took d r b else r

/-- RefDev's byte for a receive, and the device after it (R95). -/
def RefDev.received (d : DevTable) (r : RefDev) : Byte × RefDev :=
  ((RefDev.devRead d r r.ptr).1, RefDev.advance d (RefDev.devRead d r r.ptr).2)

/-! ### The four questions (R90) -/

/-- `ENV.addr(sa, dir)`: the answer and ENV after it. -/
def Env.askAddr (sa : BitVec 7) (dir : Dir) (e : Env) : Answer × Env :=
  match e.addr, e.dev with
  | a :: rest, dev => (a, { e with addr := rest, dev := dev.map fun r => r.addressed dir a })
  | [], some r => (r.addrAnswer sa, { e with dev := some (r.addressed dir (r.addrAnswer sa)) })
  | [], none => (Config.envAddr e.drawn, { e with drawn := e.drawn + 1 })

/-- `ENV.tx(byte)`: the answer and ENV after it. -/
def Env.askTx (d : DevTable) (b : Byte) (e : Env) : Answer × Env :=
  match e.tx, e.dev with
  | a :: rest, dev => (a, { e with tx := rest, dev := dev.map fun r => r.transmitted d b a })
  | [], some r => (.ack, { e with dev := some (r.transmitted d b .ack) })
  | [], none => (Config.envTx e.drawn, { e with drawn := e.drawn + 1 })

/-- `ENV.rx()`: the byte and ENV after it. -/
def Env.askRx (d : DevTable) (e : Env) : Byte × Env :=
  match e.rx, e.dev with
  | b :: rest, dev => (b, { e with rx := rest, dev := dev.map fun r => (r.received d).2 })
  | [], some r => ((r.received d).1, { e with dev := some (r.received d).2 })
  | [], none => (Config.envRx e.drawn, { e with drawn := e.drawn + 1 })

/-- `ENV.ready()`: whether the register-ready condition shows within CFG.POLL_CEILING iterations, and ENV after it. -/
def Env.askReady (e : Env) : Bool × Env :=
  match e.ready, e.dev with
  | v :: rest, _ => (v, { e with ready := rest })
  | [], some _ => (true, e)
  | [], none => (Config.envReady e.drawn, { e with drawn := e.drawn + 1 })

end Sys2Proof.Machine
end

