-- ==== Sys2Proof/Machine/Ops.lean ====
section
/-! DEFINITION. The named operations: reads of PBUF and IMG, the bus primitives (R142 to R151), the two transaction
procedures one primitive at a time (R152, R153), and the two endings of a command, `fail` and `succeed` (R275, R276),
which are all that "taking an exception" and "returning" are on this block (R270, R279). -/

namespace Sys2Proof.Machine

/-- The outcome of a step of this machine. -/
abbrev Out := Host.Outcome State Fault Refusal

/-! ### PBUF and IMG -/

/-- `PBUF[i]`: a byte nothing has written is a free value (R71, U1). -/
def State.pbufByte (s : State) (i : Nat) : Byte := (Memory.read s.pbuf i).getD (Config.pbufUnwritten s.epoch i)

/-- `IMG[a]`: a byte nothing has written is a free value (R72, U2). -/
def State.imgByte (s : State) (a : Nat) : Byte := (Memory.read s.img a).getD (Config.imgUnwritten s.epoch a)

/-- `PBUF[0 .. n-1]` (R71). -/
def State.pbufBytes (s : State) (n : Nat) : List Byte := (List.range n).map s.pbufByte

/-- `IMG[a .. a+n-1]` (R72). -/
def State.imgBytes (s : State) (a n : Nat) : List Byte := (List.range n).map fun k => s.imgByte (a + k)

/-- `PBUF[0 .. len-1] <- bytes` (R71, R155). -/
def State.storePbuf (s : State) (bytes : List Byte) : State := { s with pbuf := Memory.writeAll s.pbuf 0 bytes }

/-! ### Endings (R275, R276) -/

/-- The command phase moves on. -/
def State.goto (s : State) (p : Phase) : State := { s with seq := { s.seq with phase := p } }

/-- `fail CODE cause C` (R275): RESULT and BUSY are written, nothing else, and the block is idle. -/
def State.fail (s : State) (code cause : Code) : State :=
  { s with result := ⟨code, cause, false, true⟩, busy := false, seq := { s.seq with phase := .idle } }

/-- `succeed with RBIT = b` (R276). -/
def State.succeed (s : State) (rbit : Bool) : State :=
  { s with result := ⟨.ok, .ok, rbit, true⟩, busy := false, seq := { s.seq with phase := .idle } }

/-- The ending step of a command. -/
def State.finish (s : State) : Ending → State
  | .succeed rbit => s.succeed rbit
  | .fail code cause => s.fail code cause

/-- `CheckInit` (R140): the command goes on only when INITD = 1. -/
def State.ifInitd (s : State) (go : State → State) : State :=
  if s.bt.initd then go s else s.fail .notReady .ok

/-! ### Bus primitives -/

/-- `Start(sa, dir)` with `sa` in SA (R144). Its guard is `State.held` (R143). -/
def State.start (s : State) (dir : Dir) : Answer × State :=
  let ask := s.env.askAddr s.bt.sa dir
  (ask.1,
    { s with
      bt := noteAnswer ask.1 (startModes dir s.bt)
      trace := s.trace ++ [.start, .addr s.bt.sa dir ask.1]
      env := ask.2 })

/-- `Tx(b)` (R145). -/
def State.tx (s : State) (b : Byte) : Answer × State :=
  let ask := s.env.askTx s.cfg.dev b
  (ask.1,
    { s with bt := noteAnswer ask.1 (countTx s.bt), trace := s.trace ++ [.tx b ask.1], env := ask.2 })

/-- `Rx()`: the byte goes to the transaction's buffer (R146). -/
def State.rx (s : State) : State :=
  let ask := s.env.askRx s.cfg.dev
  { s with
    bt := countDown s.bt, trace := s.trace ++ [.rx ask.1], env := ask.2,
    seq := { s.seq with rbuf := s.seq.rbuf ++ [ask.1] } }

/-- `Stop()` (R148), also the automatic stop of a bounded read (R153). -/
def State.stop (s : State) : State := { s with bt := stopModes s.bt, trace := s.trace ++ [.stop] }

/-- `PollReady()` (R149). -/
def State.pollReady (s : State) : Bool × State :=
  let ask := s.env.askReady
  (ask.1,
    { s with
      bt := { s.bt with ardy := s.bt.ardy || ask.1 }, trace := s.trace ++ [.ready ask.1], env := ask.2 })

/-- `BusReset()` (R142). -/
def State.busReset (s : State) : State := { s with bt := busResetRegs s.bt, trace := s.trace ++ [.reset] }

/-- `BusInit()` (R141). -/
def State.busInit (s : State) : State := { s with bt := busInitRegs s.cfg s.bt, trace := s.trace ++ [.init] }

/-- `TimeoutRecovery()` (R151). -/
def State.timeoutRecovery (s : State) : State :=
  let s := { s with bt := { s.bt with ardy := false, nack := false, arbl := false } }
  s.stop.busReset.busInit

/-- NACK cleared once it has been handled (R152, R153). -/
def State.clearNack (s : State) : State := { s with bt := { s.bt with nack := false } }

/-- The receiver is the idle mode again after arbitration loss (R147). -/
def State.dropTrx (s : State) : State := { s with bt := { s.bt with trx := false } }

/-! ### The transaction procedures (R152, R153) -/

/-- What a transaction procedure returns: `Ok`, with the bytes received, or `Fail(code)`. -/
inductive Reply
  | ok (buf : List Byte)
  | fail (c : Code)
  deriving DecidableEq, Repr

/-- What one step inside a transaction procedure comes to. -/
inductive XferNext
  /-- `Start` is not enabled: the block has no step (R143). -/
  | hold
  /-- The procedure goes on at another place. -/
  | go (x : XferAt) (s : State)
  /-- The procedure returns. -/
  | done (r : Reply) (s : State)
  deriving DecidableEq, Repr

/-- The bus registers at the head of an attempt of `BT_Write`: sticky flags cleared (R160), repeat mode (R152). -/
def writeAttempt (b : BusRegs) : BusRegs := { clearSticky b with rm := true }

/-- The bus registers at the head of a phase of `BT_Read`: sticky flags cleared, non-repeat mode, BCNT loaded (R153). -/
def readAttempt (n : BitVec 16) (b : BusRegs) : BusRegs := { clearSticky b with rm := false, bcnt := n }

/-- Entry of `BT_Write(sa, reg, data)` up to its first Start (R152). `here` says where the caller stands. -/
def State.beginWrite (s : State) (sa : BitVec 7) (reg : Byte) (data : List Byte) (here : XferAt → Phase) : State :=
  { s with
    bt := writeAttempt { s.bt with sa := sa, rega := reg, cnt := BitVec.ofNat 16 data.length, retry := false }
    seq := { s.seq with txbuf := data, phase := here (.w .start) } }

/-- Entry of `BT_Read(sa, reg, n)` up to its first Start (R153). -/
def State.beginRead (s : State) (sa : BitVec 7) (reg : Byte) (n : BitVec 16) (here : XferAt → Phase) : State :=
  { s with
    bt := readAttempt 1 { s.bt with sa := sa, rega := reg, cnt := n }
    seq := { s.seq with rbuf := [], phase := here (.r .start1) } }

/-- Whether `Start` is held: STP = 1 or BB = 1 (R143). -/
def busHeld (b : BusRegs) : Bool := b.stp || b.bb

/-- One primitive of `BT_Write` (R152). -/
def writeStep (s : State) : WriteAt → XferNext
  | .start =>
    if busHeld s.bt then .hold
    else
      match s.start .write with
      | (.ack, s) => .go (.w .reg) s
      | (.nack, s) => .go (.w .nackStop) s
      | (.arblost, s) => .done (.fail .arbLost) s.dropTrx
  | .reg =>
    match s.tx s.bt.rega with
    | (.ack, s) => .go (.w .data) s
    | (.nack, s) => .go (.w .nackStop) s
    | (.arblost, s) => .done (.fail .arbLost) s.dropTrx
  | .data =>
    match s.seq.txbuf with
    | [] => .done (.ok []) s.stop
    | b :: rest =>
      match { s with seq := { s.seq with txbuf := rest } }.tx b with
      | (.ack, s) => .go (.w .data) s
      | (.nack, s) => .go (.w .payloadStop) s
      | (.arblost, s) => .done (.fail .arbLost) s.dropTrx
  | .nackStop =>
    let s := s.stop.clearNack
    if s.bt.retry then .done (.fail .busNack) s
    else .go (.w .start) { s with bt := writeAttempt { s.bt with retry := true } }
  | .payloadStop => .done (.fail .busNack) s.stop.clearNack

/-- One primitive of `BT_Read` (R153). DESIGN CHOICE (log entry 5), twice: `ARDY <- 0` after a poll that found the
condition is made in the step of the Stop that follows, so STATUS shows ARDY = 1 between the poll and that Stop; and the
automatic stop, which R15 does not list among the primitives, is a step of its own after the last Rx. -/
def readStep (s : State) : ReadAt → XferNext
  | .start1 =>
    if busHeld s.bt then .hold
    else
      match s.start .write with
      | (.ack, s) => .go (.r .reg) s
      | (.nack, s) => .go (.r .nackStop) s
      | (.arblost, s) => .done (.fail .arbLost) s.dropTrx
  | .reg =>
    match s.tx s.bt.rega with
    | (.ack, s) => .go (.r .poll) s
    | (.nack, s) => .go (.r .nackStop) s
    | (.arblost, s) => .done (.fail .arbLost) s.dropTrx
  | .poll =>
    match s.pollReady with
    | (true, s) => .go (.r .stop1) s
    | (false, s) => .go (.r .timeout) s
  | .timeout => .done (.fail .busTimeout) s.timeoutRecovery
  | .stop1 =>
    let s := { s with bt := { s.bt with ardy := false } }.stop
    .go (.r .start2) { s with bt := readAttempt s.bt.cnt s.bt }
  | .start2 =>
    if busHeld s.bt then .hold
    else
      match s.start .read with
      | (.ack, s) => .go (.r .rx) s
      | (.nack, s) => .go (.r .nackStop) s
      | (.arblost, s) => .done (.fail .arbLost) s.dropTrx
  | .rx =>
    let s := s.rx
    if s.bt.bcnt = 0 then .go (.r .stop2) s else .go (.r .rx) s
  | .stop2 => .done (.ok s.seq.rbuf) s.stop
  | .nackStop => .done (.fail .busNack) s.stop.clearNack

/-- One primitive of the running transaction procedure. -/
def xferStep (s : State) : XferAt → XferNext
  | .w a => writeStep s a
  | .r a => readStep s a

/-- One step of a caller that is inside a transaction procedure: `here` is its place, `reply` what it does with the
procedure's return value, up to its next primitive. -/
def State.xfer (s : State) (x : XferAt) (here : XferAt → Phase) (reply : Reply → State → State) : State :=
  match xferStep s x with
  | .hold => s
  | .go y s' => s'.goto (here y)
  | .done r s' => reply r s'

/-- A command whose transaction was its last: OK, or the transaction's code (`if r = Fail(c) then fail c; succeed`). -/
def endWith (r : Reply) (s : State) : State :=
  match r with
  | .ok _ => s.goto (.ending (.succeed false))
  | .fail c => s.goto (.ending (.fail c .ok))

/-! ### DeviceRegisterIO procedures (R180) -/

/-- Entry of `DevWriteByte(reg, v)` (R180). -/
def State.beginDevWriteByte (s : State) (reg v : Byte) (here : XferAt → Phase) : State :=
  s.beginWrite s.cfg.dev.devaddr reg [v] here

/-- Entry of `DevSelectBank(bank, pf, ub)` (R180). -/
def State.beginSelectBank (s : State) (bank : BitVec 5) (pf ub : BitVec 1) (here : XferAt → Phase) : State :=
  s.beginDevWriteByte s.cfg.dev.raBankSel (bankByte bank pf ub) here

/-- Entry of `DevSetStartAddress(offs)` (R180). -/
def State.beginSetStartAddress (s : State) (offs : Byte) (here : XferAt → Phase) : State :=
  s.beginDevWriteByte s.cfg.dev.raMemStartAddr offs here

/-- Entry of `DevRead(reg, n)` (R180). -/
def State.beginDevRead (s : State) (reg : Byte) (n : BitVec 16) (here : XferAt → Phase) : State :=
  s.beginRead s.cfg.dev.devaddr reg n here

/-- Between the two transactions of a read-modify-write: TMPB takes the byte read, and the write-back of the new byte
begins (R159). -/
def State.writeBack (s : State) (sa : BitVec 7) (reg : Byte) (start width : Nat) (value : Byte) (buf : List Byte)
    (here : XferAt → Phase) : State :=
  let old := byteAt buf 0
  { s with bt := { s.bt with tmpb := old } }.beginWrite sa reg [fieldInsert old start width value] here

/-! ### Phases the block can be held in -/

/-- Whether a place in a transaction procedure is a guarded Start. -/
def XferAt.atStart : XferAt → Bool
  | .w .start | .r .start1 | .r .start2 => true
  | _ => false

/-- Whether BLOCK has no step: it stands at a Start that is not enabled (R143). -/
def State.held (s : State) : Bool :=
  match s.seq.phase with
  | .cmd _ x | .record _ x => x.atStart && busHeld s.bt
  | _ => false

/-- Whether BLOCK is inside a transaction, between a START and the STOP that follows it (R92). -/
def State.inTransaction (s : State) : Bool :=
  match s.seq.phase with
  | .cmd _ x | .record _ x => !x.atStart
  | _ => false

end Sys2Proof.Machine
end

