-- ==== Sys2Proof/Machine/Upload.lean ====
section
/-! DEFINITION. The FirmwareProgrammer procedures `UploadBlock` (R202) and `UploadImage` (R206), one primitive at a
time. -/

namespace Sys2Proof.Machine

/-- What a procedure of several transactions comes to after a reply: a transaction has been entered, or it returns
(`none` is Ok, `some c` is Fail(c)). -/
inductive ProcNext
  | run (s : State)
  | ret (r : Option Code) (s : State)
  deriving DecidableEq, Repr

/-! ### UploadBlock (R202)

`here` says who runs the procedure: UPBLK (`Phase.cmd`) or a data record (`Phase.record`). -/

/-- The head of the chunk loop: "while REMAIN > 0", the chunk length, and the bank select of the chunk (R200 to R202). -/
def blockHead (here : Site → XferAt → Phase) (s : State) : ProcNext :=
  if s.fp.remain = 0 then .ret none s
  else
    let len := chunkLen s.cfg.chunk s.fp.remain.toNat s.fp.curoff.toNat
    let s := { s with fp := { s.fp with chunklen := BitVec.ofNat 9 len } }
    .run (s.beginSelectBank s.fp.curbank 0 0 (here .upSelect))

/-- Entry of `UploadBlock(src, size, bank, off, verify)` (R202). -/
def blockEnter (here : Site → XferAt → Phase) (src : BitVec 17) (size : BitVec 16) (bank : BitVec 5) (off : Byte)
    (verify : Bool) (s : State) : ProcNext :=
  blockHead here
    { s with
      fp := { s.fp with
        curbank := bank, curoff := off, remain := size, srcptr := src, verify := verify } }

/-- The chunk is done: SRCPTR, REMAIN and CUROFF advance, the bank steps when the offset wrapped and chunks remain
(R202). -/
def chunkDone (p : ProgRegs) : ProgRegs :=
  let off := p.curoff + p.chunklen.setWidth 8
  let remain := p.remain - p.chunklen.setWidth 16
  { p with
    srcptr := p.srcptr + p.chunklen.setWidth 17
    remain := remain
    curoff := off
    curbank := if off = 0 ∧ remain ≠ 0 then p.curbank + 1 else p.curbank }

/-- The next round of the chunk loop (R202). -/
def blockNext (here : Site → XferAt → Phase) (s : State) : ProcNext := blockHead here { s with fp := chunkDone s.fp }

/-- The bytes of the current chunk in IMG (R202). -/
def State.chunkBytes (s : State) : List Byte := s.imgBytes s.fp.srcptr.toNat s.fp.chunklen.toNat

/-- VBUF after a read-back: `VBUF[0 .. CHUNKLEN-1] <- buf` (R202). -/
def storeVbuf (buf vbuf : List Byte) : List Byte := buf ++ vbuf.drop buf.length

/-- What `UploadBlock` does when one of its transactions has returned (R202). -/
def blockReply (here : Site → XferAt → Phase) (k : Site) (r : Reply) (s : State) : ProcNext :=
  match r with
  | .fail c => .ret (some c) s
  | .ok buf =>
    match k with
    | .upSelect => .run (s.beginSetStartAddress s.fp.curoff (here .upAddr))
    | .upAddr => .run (s.beginWrite s.cfg.dev.devaddr s.cfg.dev.raMemRW s.chunkBytes (here .upData))
    | .upData => if s.fp.verify then .run (s.beginSelectBank s.fp.curbank 0 0 (here .upVSelect)) else blockNext here s
    | .upVSelect => .run (s.beginSetStartAddress s.fp.curoff (here .upVAddr))
    | .upVAddr => .run (s.beginDevRead s.cfg.dev.raMemRW (s.fp.chunklen.setWidth 16) (here .upVRead))
    | .upVRead =>
      let s := { s with fp := { s.fp with vbuf := storeVbuf buf s.fp.vbuf } }
      if buf = s.chunkBytes then blockNext here s else .ret (some .verifyMismatch) s
    | _ => .ret none s

/-- Whether a site is one of `UploadBlock`'s. -/
def Site.ofUpload : Site → Bool
  | .upSelect | .upAddr | .upData | .upVSelect | .upVAddr | .upVRead => true
  | _ => false

/-- A procedure's caller: a transaction that has been entered goes on, a return value is handled. -/
def ProcNext.elim (p : ProcNext) (ret : Option Code → State → State) : State :=
  match p with
  | .run s => s
  | .ret r s => ret r s

/-- A command that ends when its upload returns: OK, or `fail CODE cause c` (R203, R207, R232). -/
def endUpload (code : Code) (r : Option Code) (s : State) : State :=
  match r with
  | none => s.goto (.ending (.succeed false))
  | some c => s.goto (.ending (.fail code c))

/-! ### UploadImage (R206) -/

/-- Entry of `UploadImage(src, len, verify)` (R206). -/
def imageEnter (src len : BitVec 16) (verify : Bool) (s : State) : State :=
  { s with
    fp := { s.fp with ipos := src.setWidth 17, iend := src.setWidth 17 + len.setWidth 17 }
    seq := { s.seq with imgVerify := verify, phase := .image } }

/-- The record at IPOS, if one decodes from the bytes up to IEND (R206, R211). -/
def fetchRecord (s : State) : Except DecodeError (Instr × List Byte) :=
  decodeRecord (s.imgBytes s.fp.ipos.toNat (min (s.fp.iend.toNat - s.fp.ipos.toNat) longestRecord))

/-- What `UploadImage` returns when no record stands at IPOS: Ok at the end of the image, BAD_SPECIAL_OPCODE (R210) or
IMAGE_MALFORMED (R211). -/
def imageReturn (s : State) : Option Code :=
  if s.fp.iend.toNat ≤ s.fp.ipos.toNat then none
  else
    match fetchRecord s with
    | .error (.badSpecialOpcode _) => some .badSpecialOpcode
    | _ => some .imageMalformed

/-- A record has completed: IPOS advances by the record's size (R31, R206). -/
def recordDone (size : Nat) (s : State) : State :=
  { s with fp := { s.fp with ipos := s.fp.ipos + BitVec.ofNat 17 size } }.goto .image

/-- A record that has returned: the next record, or `UploadImage` returns its failure (R206). -/
def recordEnd (size : Nat) (r : Option Code) (s : State) : State :=
  match r with
  | none => recordDone size s
  | some c => s.goto (.imageDone (some c))

end Sys2Proof.Machine
end

