-- ==== Sys2Proof/Machine/Sampling.lean ====
section
/-! DEFINITION. The AcquisitionEngine procedures `IdentityCheck` (R233) and `ReadSample` (R240 to R246), one primitive
at a time. -/

namespace Sys2Proof.Machine

/-! ### IdentityCheck (R233) -/

/-- One identity read begins (R233). -/
def identityRead (s : State) : State := s.beginDevRead s.cfg.dev.raWhoAmI 1 (.cmd .identity)

/-- Entry of `IdentityCheck` (R233). -/
def identityEnter (s : State) : State := identityRead { s with ae := { s.ae with idtry := 0 } }

/-- Whether an identity read returned the expected byte (R233). -/
def identityMatches (c : Cfg) : Reply → Bool
  | .ok buf => byteAt buf 0 == c.idExpected
  | .fail _ => false

/-- The cause of a failed identity attempt: the read's code, or none after a wrong byte (R233). -/
def identityCause : Reply → Code
  | .ok _ => .ok
  | .fail c => c

/-- What `IdentityCheck` does when an identity read has returned: Ok, another attempt, or Fail(cause) (R233). -/
def identityReply (r : Reply) (s : State) : ProcNext :=
  if identityMatches s.cfg r then .ret none s
  else
    let s := { s with ae := { s.ae with idtry := s.ae.idtry + 1 } }
    if s.ae.idtry.toNat = s.cfg.idRetryMax then .ret (some (identityCause r)) s else .run (identityRead s)

/-! ### ReadSample (R240) -/

/-- Entry of `ReadSample`, and each new wait: one read of the FIFO count begins (R241). -/
def fifoWait (s : State) : State := s.beginDevRead s.cfg.dev.raFifoCountH 2 (.cmd .fifoCount)

/-- What `ReadSample` does when one of its transactions has returned (R241 to R246). -/
def sampleReply (k : Site) (r : Reply) (s : State) : ProcNext :=
  match r with
  | .fail c => .ret (some c) s
  | .ok buf =>
    match k with
    | .fifoCount =>
      let s := { s with ae := { s.ae with fifocnt := pairAt buf 0 } }
      if s.ae.fifocnt.toNat < pktSize then .run (fifoWait s)
      else .run (s.beginDevRead s.cfg.dev.raIntStatus 1 (.cmd .intStatus))
    | .intStatus =>
      let s := { s with ae := { s.ae with intstat := byteAt buf 0 } }
      if fifoOverflowed s.cfg s.ae.intstat s.ae.fifocnt then
        .run (s.beginDevRead s.cfg.dev.raUserCtrl 1 (.cmd .ovfRead))
      else .run (s.beginDevRead s.cfg.dev.raFifoRW (BitVec.ofNat 16 pktSize) (.cmd .packet))
    | .ovfRead =>
      .run (s.writeBack s.cfg.dev.devaddr s.cfg.dev.raUserCtrl s.cfg.dev.fifoResetStart.toNat 1 1 buf (.cmd .ovfWrite))
    | .ovfWrite => .run (fifoWait s)
    | .packet =>
      let s := { s with ae := { s.ae with pkt := buf, raw := rawFields s.cfg.pktOff buf } }
      .run (s.beginDevRead s.cfg.dev.raTempH 2 (.cmd .temp))
    | .temp =>
      let rawt := pairAt buf 0
      .ret none { s with ae := { s.ae with rawt := rawt, stg := stageSample s.cfg s.ae.raw rawt } }
    | _ => .ret none s

/-- Whether a site is one of `ReadSample`'s. -/
def Site.ofSample : Site → Bool
  | .fifoCount | .intStatus | .ovfRead | .ovfWrite | .packet | .temp => true
  | _ => false

/-- A sample read that failed on the bus: SMP_STATUS is 0 and the command fails (R240, R250). -/
def sampleFailed (c : Code) (s : State) : State := { s with smpStatus := false }.goto (.ending (.fail c .ok))

/-- SMP0..SMP10 and SMP_STATUS are written together and the command succeeds (R33, R240, R250). -/
def commitSample (v : Sample) (s : State) : State :=
  { s with smp := v, smpStatus := true }.goto (.ending (.succeed false))

/-- RDSMP's use of the return value of `ReadSample` (R240). -/
def singleSampleEnd (r : Option Code) (s : State) : State :=
  match r with
  | some c => sampleFailed c s
  | none => commitSample s.ae.stg s

/-- AVGN, AVGI and ACC at the start of RDAVG (R250). -/
def averageEnter (n : BitVec 16) (s : State) : State :=
  fifoWait { s with ae := { s.ae with avgn := n, avgi := 0, acc := accZero } }

/-- RDAVG's use of the return value of a `ReadSample`: the sums, then the next sample or the means (R250). -/
def averageSampleEnd (r : Option Code) (s : State) : State :=
  match r with
  | some c => sampleFailed c s
  | none =>
    let s := { s with ae := { s.ae with acc := accAdd s.ae.acc s.ae.stg, avgi := s.ae.avgi + 1 } }
    if s.ae.avgi.toNat < s.ae.avgn.toNat then fifoWait s else commitSample (accMean s.ae.acc s.ae.avgn) s

end Sys2Proof.Machine
end

