-- ==== Sys2Proof/Machine/Acquisition.lean ====
section
/-! DEFINITION. The AcquisitionEngine commands SETUP, RDSMP, RDAVG (`43_acquisition_engine.md`). -/

namespace Sys2Proof.Machine

/-- DEVSTAT, which SETUP alone writes (R231). -/
def State.setDevstat (s : State) (d : DevStat) : State := { s with ae := { s.ae with devstat := d } }

/-- SETUP's use of the return value of `IdentityCheck` (R232). -/
def setupIdentified (r : Option Code) (s : State) : State :=
  match r with
  | some c => (s.setDevstat .disconnected).goto (.ending (.fail .deviceNotResponding c))
  | none => imageEnter s.cfg.dmpImgBase s.cfg.dmpImgLen s.cfg.setupVerify (s.setDevstat .connected)

/-- SETUP's use of the return value of `UploadImage` (R232). DESIGN CHOICE (log entry 5): it is a step of its own, so
`DEVSTAT <- 2` is one step after the record loop has ended. -/
def setupUploaded (r : Option Code) (s : State) : State :=
  match r with
  | some c => s.goto (.ending (.fail .dmpInitFailed c))
  | none => (s.setDevstat .dmpReady).goto (.ending (.succeed false))

/-- SETUP (R232). Its image's records are executed by REC_DATA and REC_SPC_INTEN; the image's return value is taken in
a step of its own (DESIGN CHOICE, log entry 5). -/
def execSetup (s : State) : Out :=
  match s.seq.phase with
  | .accepted => .next (identityEnter s.busReset.busInit)
  | .cmd .identity x => .next (s.xfer x (.cmd .identity) fun r s => (identityReply r s).elim setupIdentified)
  | .image => .next (s.goto (.imageDone (imageReturn s)))
  | .imageDone r => .next (setupUploaded r s)
  | .ending e => .next (s.finish e)
  | _ => .fault .noSuchPhase

/-- RDSMP (R240). -/
def execRdsmp (s : State) : Out :=
  match s.seq.phase with
  | .accepted => if s.ae.devstat ≠ .dmpReady then .next (s.fail .notReady .ok) else .next (fifoWait s)
  | .cmd k x =>
    if k.ofSample then .next (s.xfer x (.cmd k) fun r s => (sampleReply k r s).elim singleSampleEnd)
    else .fault .noSuchPhase
  | .ending e => .next (s.finish e)
  | _ => .fault .noSuchPhase

/-- RDAVG (R250). -/
def execRdavg (n : BitVec 16) (s : State) : Out :=
  match s.seq.phase with
  | .accepted =>
    if n = 0 then .next (s.fail .illegalOperand .ok)
    else if s.ae.devstat ≠ .dmpReady then .next (s.fail .notReady .ok)
    else .next (averageEnter n s)
  | .cmd k x =>
    if k.ofSample then .next (s.xfer x (.cmd k) fun r s => (sampleReply k r s).elim averageSampleEnd)
    else .fault .noSuchPhase
  | .ending e => .next (s.finish e)
  | _ => .fault .noSuchPhase

end Sys2Proof.Machine
end

