-- ==== Sys2Proof/Machine/BusTransport.lean ====
section
/-! DEFINITION. The BusTransport commands INIT, WRB, RDB, RDBIT, WRBIT, WRBF (`40_bus_transport.md`). A meaning is one
step of its command: the command phase says which. -/

namespace Sys2Proof.Machine

/-- The read-modify-write shared by WRBF, WRBIT and DWBF (R159, R180), as one step. -/
def rmwCommand (sa : BitVec 7) (reg : Byte) (start : BitVec 3) (width : BitVec 4) (value : Byte) (s : State) : Out :=
  match s.seq.phase with
  | .accepted =>
    if !fieldLegal start width then .next (s.fail .illegalOperand .ok)
    else .next (s.ifInitd fun s => s.beginRead sa reg 1 (.cmd .rmwRead))
  | .cmd .rmwRead x =>
    .next (s.xfer x (.cmd .rmwRead) fun
      | .ok buf, s => s.writeBack sa reg start.toNat width.toNat value buf (.cmd .rmwWrite)
      | .fail c, s => s.goto (.ending (.fail c .ok)))
  | .cmd .rmwWrite x => .next (s.xfer x (.cmd .rmwWrite) endWith)
  | .ending e => .next (s.finish e)
  | _ => .fault .noSuchPhase

/-- INIT (R141). -/
def execInit (s : State) : Out :=
  match s.seq.phase with
  | .accepted => .next (s.busReset.busInit.goto (.ending (.succeed false)))
  | .ending e => .next (s.finish e)
  | _ => .fault .noSuchPhase

/-- WRB (R154). -/
def execWrb (sa : BitVec 7) (reg : Byte) (cnt : BitVec 16) (s : State) : Out :=
  match s.seq.phase with
  | .accepted =>
    if s.cfg.pbufSize < cnt.toNat then .next (s.fail .illegalOperand .ok)
    else .next (s.ifInitd fun s => s.beginWrite sa reg (s.pbufBytes cnt.toNat) (.cmd .wrb))
  | .cmd .wrb x => .next (s.xfer x (.cmd .wrb) endWith)
  | .ending e => .next (s.finish e)
  | _ => .fault .noSuchPhase

/-- RDB (R155). -/
def execRdb (sa : BitVec 7) (reg : Byte) (cnt : BitVec 16) (s : State) : Out :=
  match s.seq.phase with
  | .accepted =>
    if cnt = 0 ∨ s.cfg.pbufSize < cnt.toNat then .next (s.fail .illegalOperand .ok)
    else .next (s.ifInitd fun s => s.beginRead sa reg cnt (.cmd .rdb))
  | .cmd .rdb x =>
    .next (s.xfer x (.cmd .rdb) fun
      | .ok buf, s => (s.storePbuf buf).goto (.ending (.succeed false))
      | .fail c, s => s.goto (.ending (.fail c .ok)))
  | .ending e => .next (s.finish e)
  | _ => .fault .noSuchPhase

/-- RDBIT (R157). DESIGN CHOICE (log entry 24): a read transaction alone, as R157's pseudocode and V80 to V82 have it,
where R84 lists RDBIT among the commands that are a read and then a write and gives it no byte to write. -/
def execRdbit (sa : BitVec 7) (reg : Byte) (bit : BitVec 3) (s : State) : Out :=
  match s.seq.phase with
  | .accepted => .next (s.ifInitd fun s => s.beginRead sa reg 1 (.cmd .rdbit))
  | .cmd .rdbit x =>
    .next (s.xfer x (.cmd .rdbit) fun
      | .ok buf, s =>
        { s with bt := { s.bt with tmpb := byteAt buf 0 } }.goto (.ending (.succeed (fieldBit (byteAt buf 0) bit.toNat)))
      | .fail c, s => s.goto (.ending (.fail c .ok)))
  | .ending e => .next (s.finish e)
  | _ => .fault .noSuchPhase

/-- WRBIT: "exactly WRBF(SA, REG, START = BIT, WIDTH = 1, VALUE = V)" (R158). -/
def execWrbit (sa : BitVec 7) (reg : Byte) (bit : BitVec 3) (v : BitVec 1) (s : State) : Out :=
  rmwCommand sa reg bit 1 (v.setWidth 8) s

/-- WRBF (R159). -/
def execWrbf (sa : BitVec 7) (reg : Byte) (start : BitVec 3) (width : BitVec 4) (value : Byte) (s : State) : Out :=
  rmwCommand sa reg start width value s

end Sys2Proof.Machine
end

