-- ==== Sys2Proof/Machine/DeviceIO.lean ====
section
/-! DEFINITION. The DeviceRegisterIO commands DWB, DWBF, SELBANK, SETADDR (`41_device_register_io.md`): each is one
BusTransport operation at the device address CFG.DEV.DEVADDR. -/

namespace Sys2Proof.Machine

/-- A command that is one byte write at the device address, as one step; `start` enters the write (R181, R183, R184). -/
def devWriteCommand (start : State → State) (s : State) : Out :=
  match s.seq.phase with
  | .accepted => .next (s.ifInitd start)
  | .cmd .devWrite x => .next (s.xfer x (.cmd .devWrite) endWith)
  | .ending e => .next (s.finish e)
  | _ => .fault .noSuchPhase

/-- DWB (R181). -/
def execDwb (reg value : Byte) (s : State) : Out :=
  devWriteCommand (fun s => s.beginDevWriteByte reg value (.cmd .devWrite)) s

/-- DWBF: as WRBF at the device address (R182). -/
def execDwbf (reg : Byte) (start : BitVec 3) (width : BitVec 4) (value : Byte) (s : State) : Out :=
  rmwCommand s.cfg.dev.devaddr reg start width value s

/-- SELBANK (R183): CURBANK is not written. -/
def execSelbank (bank : BitVec 5) (pf ub : BitVec 1) (s : State) : Out :=
  devWriteCommand (fun s => s.beginSelectBank bank pf ub (.cmd .devWrite)) s

/-- SETADDR (R184): CUROFF is not written. -/
def execSetaddr (offs : Byte) (s : State) : Out :=
  devWriteCommand (fun s => s.beginSetStartAddress offs (.cmd .devWrite)) s

end Sys2Proof.Machine
end

