-- ==== Sys2Proof/Machine/Firmware.lean ====
section
/-! DEFINITION. The FirmwareProgrammer commands UPBLK and UPIMG and the two image records REC_DATA and REC_SPC_INTEN
(`42_firmware_programmer.md`). -/

namespace Sys2Proof.Machine

/-- UPBLK (R203). -/
def execUpblk (v : BitVec 1) (bank : BitVec 5) (offs : Byte) (size src : BitVec 16) (s : State) : Out :=
  match s.seq.phase with
  | .accepted =>
    if !insideImg s.cfg src.toNat size.toNat then .next (s.fail .illegalOperand .ok)
    else if !insideDmem bank.toNat offs.toNat size.toNat then .next (s.fail .illegalOperand .ok)
    else
      .next (s.ifInitd fun s =>
        (blockEnter .cmd (src.setWidth 17) size bank offs (v == 1) s).elim (endUpload .fwUploadFailed))
  | .cmd k x =>
    if k.ofUpload then
      .next (s.xfer x (.cmd k) fun r s => (blockReply .cmd k r s).elim (endUpload .fwUploadFailed))
    else .fault .noSuchPhase
  | .ending e => .next (s.finish e)
  | _ => .fault .noSuchPhase

/-- UPIMG (R207). Its records are executed by REC_DATA and REC_SPC_INTEN; the command itself enters the image, ends
it where no record stands, and takes its return value in a step of its own (DESIGN CHOICE, log entry 5). -/
def execUpimg (v : BitVec 1) (len src : BitVec 16) (s : State) : Out :=
  match s.seq.phase with
  | .accepted =>
    if !insideImg s.cfg src.toNat len.toNat then .next (s.fail .illegalOperand .ok)
    else .next (s.ifInitd (imageEnter src len (v == 1)))
  | .image => .next (s.goto (.imageDone (imageReturn s)))
  | .imageDone r => .next (endUpload .fwUploadFailed r s)
  | .ending e => .next (s.finish e)
  | _ => .fault .noSuchPhase

/-- REC_DATA (R208): a bank byte above 31 or a block past bank 31 makes `UploadImage` return ILLEGAL_OPERAND (R206). -/
def execRecData (bank offs : Byte) (data : List Byte) (s : State) : Out :=
  match s.seq.phase with
  | .image =>
    if 31 < bank.toNat ∨ !insideDmem bank.toNat offs.toNat data.length then
      .next (s.goto (.imageDone (some .illegalOperand)))
    else
      .next ((blockEnter .record (s.fp.ipos + 3) (BitVec.ofNat 16 data.length) (bank.setWidth 5) offs s.seq.imgVerify
        s).elim (recordEnd (3 + data.length)))
  | .record k x =>
    if k.ofUpload then
      .next (s.xfer x (.record k) fun r s => (blockReply .record k r s).elim (recordEnd (3 + data.length)))
    else .fault .noSuchPhase
  | _ => .fault .noSuchPhase

/-- REC_SPC_INTEN (R209): one byte write; the bank and offset bytes are ignored. -/
def execRecSpcInten (_bank _offs : Byte) (s : State) : Out :=
  match s.seq.phase with
  | .image =>
    .next (s.beginDevWriteByte s.cfg.dev.raIntEnable s.cfg.dev.intEnableValue (.record .intEnable))
  | .record .intEnable x =>
    .next (s.xfer x (.record .intEnable) fun
      | .ok _, s => recordDone 4 s
      | .fail c, s => s.goto (.imageDone (some c)))
  | _ => .fault .noSuchPhase

end Sys2Proof.Machine
end

