-- ==== Sys2Proof/Machine/Dispatch.lean ====
section
/-! DEFINITION. The meaning of every instruction: one arm per constructor of Instr. -/

namespace Sys2Proof.Machine

/-- One step of an instruction at a state: the primitive that its command phase says is next (R15, R35 (e)). -/
def exec (i : Instr) (s : State) : Host.Outcome State Fault Refusal :=
  match i with
  | .init => Sys2Proof.Machine.execInit s
  | .wrb sa reg cnt => Sys2Proof.Machine.execWrb sa reg cnt s
  | .rdb sa reg cnt => Sys2Proof.Machine.execRdb sa reg cnt s
  | .rdbit sa reg bit => Sys2Proof.Machine.execRdbit sa reg bit s
  | .wrbit sa reg bit v => Sys2Proof.Machine.execWrbit sa reg bit v s
  | .wrbf sa reg start width value => Sys2Proof.Machine.execWrbf sa reg start width value s
  | .dwb reg value => Sys2Proof.Machine.execDwb reg value s
  | .dwbf reg start width value => Sys2Proof.Machine.execDwbf reg start width value s
  | .selbank bank pf ub => Sys2Proof.Machine.execSelbank bank pf ub s
  | .setaddr offs => Sys2Proof.Machine.execSetaddr offs s
  | .upblk v bank offs size src => Sys2Proof.Machine.execUpblk v bank offs size src s
  | .upimg v len src => Sys2Proof.Machine.execUpimg v len src s
  | .setup => Sys2Proof.Machine.execSetup s
  | .rdsmp => Sys2Proof.Machine.execRdsmp s
  | .rdavg n => Sys2Proof.Machine.execRdavg n s
  | .recData bank offs data => Sys2Proof.Machine.execRecData bank offs data s
  | .recSpcInten bank offs => Sys2Proof.Machine.execRecSpcInten bank offs s

end Sys2Proof.Machine
end

