-- ==== Sys2Proof/Machine/HostPort.lean ====
section
/-! DEFINITION. What surrounds the block: the host port (R21 to R25, R71, R72), the moves of ENV (R91, R92) and
RESET_BLOCK (R310), the fetch of the instruction whose primitive is next, and the placing of a word where the fetch
finds it. -/

namespace Sys2Proof.Machine

/-! ### Host registers (R21) -/

/-- What a host register holds: a 64-bit or 32-bit word, or a number. -/
inductive HostValue
  | word64 (v : BitVec 64)
  | word32 (v : BitVec 32)
  | num (v : Num)
  deriving DecidableEq, Repr

/-- CURPOS: CURBANK in bits 12:8, CUROFF in bits 7:0 (R25). -/
def curposWord (p : ProgRegs) : BitVec 32 := (p.curbank.setWidth 32 <<< 8) ||| p.curoff.setWidth 32

/-- The host registers HR0 to HR19 (R21); there are no others. -/
def hostRead (s : State) : Nat → Option HostValue
  | 0 => some (.word64 s.cmdr)
  | 1 => some (.word32 (statusWord s))
  | 2 => some (.word32 (resultWord s))
  | 3 => some (.word32 (curposWord s.fp))
  | 4 => some (.word32 (s.fp.remain.setWidth 32))
  | 5 => some (.word32 (s.fp.ipos.setWidth 32))
  | 6 => some (.word32 (s.ae.fifocnt.setWidth 32))
  | 7 => some (.word32 (s.ae.idtry.setWidth 32))
  | 8 => some (.word32 (bitAt s.smpStatus 0))
  | 9 => some (.num s.smp.roll)
  | 10 => some (.num s.smp.pitch)
  | 11 => some (.num s.smp.yaw)
  | 12 => some (.num s.smp.rollRate)
  | 13 => some (.num s.smp.pitchRate)
  | 14 => some (.num s.smp.yawRate)
  | 15 => some (.num s.smp.xAccel)
  | 16 => some (.num s.smp.yAccel)
  | 17 => some (.num s.smp.zAccel)
  | 18 => some (.num s.smp.accelMag)
  | 19 => some (.num s.smp.temperature)
  | _ => none

/-- `HostReadPBUF(i)` (R71). -/
def hostReadPbuf (s : State) (i : Nat) : Option Byte := if i < s.cfg.pbufSize then some (s.pbufByte i) else none

/-- An accepted host write of `d` to CMD: CMDR, BUSY and RESULT.VALID in one step, and the command starts (R22). -/
def acceptCommand (d : Descriptor) (s : State) : State :=
  { s with
    cmdr := d, busy := true, result := { s.result with valid := false }, seq := { s.seq with phase := .accepted } }

/-- A descriptor that is no command ends at once with ILLEGAL_COMMAND (R119). -/
def rejectCommand (s : State) : State := s.fail .illegalCommand .ok

/-! ### Moves of HOST and ENV -/

/-- A host write to host register `n` (R21, R22, U11, U12). -/
def hostWrite (n : Nat) (v : BitVec 64) (s : State) : Out :=
  if n = 0 then if s.busy then .refused .hostMoveWhileBusy else .next (acceptCommand v s)
  else if n ≤ 19 then .next s
  else .refused .noSuchHostRegister

/-- A host write of a PBUF byte (R71, U12). -/
def hostWritePbuf (i : Nat) (v : Byte) (s : State) : Out :=
  if s.busy then .refused .hostMoveWhileBusy
  else if i < s.cfg.pbufSize then .next { s with pbuf := Memory.write s.pbuf i v }
  else .fault .pbufIndexOutside

/-- A host write of an IMG byte (R72, U12). -/
def hostWriteImg (a : Nat) (v : Byte) (s : State) : Out :=
  if s.busy then .refused .hostMoveWhileBusy
  else if a < s.cfg.imgSize then .next { s with img := Memory.write s.img a v }
  else .fault .imgAddressOutside

/-- StopComplete (R91). -/
def stopComplete (s : State) : State := { s with bt := stopCompleteFlags s.bt }

/-- BB as another master's START or STOP leaves it (R92). -/
def setBusy (v : Bool) (s : State) : State := { s with bt := { s.bt with bb := v } }

/-- Whether STP or BB is set where BLOCK does not go on without ENV: it is held at a Start, or it is idle. These are
the conditions that HardwareResolves promises to end (R93, log entry 3). -/
def State.lingers (s : State) : Bool :=
  match s.seq.phase with
  | .idle => busHeld s.bt
  | _ => s.held

/-- ENV ending a lingering condition (R93): StopComplete, or ForeignIdle when no STOP is pending. -/
def liftHold (s : State) : State := if s.bt.stp then stopComplete s else setBusy false s

/-- Whether RefDev's StopComplete is next: it is "taken immediately after every STOP" (R95), before any other agent
moves, and before the next Start or when the command has ended (log entry 14). -/
def State.refDevDue (s : State) : Bool := s.env.dev.isSome && s.bt.stp && s.lingers

/-- RESET_BLOCK (R310): every piece of the block's state takes its reset value and a command in flight is dropped.
CFG, the moves to come and ENV are not the block's (log entry 21). -/
def resetBlock (s : State) : State :=
  { State.afterReset s.cfg (s.epoch + 1) with moves := s.moves, env := s.env }

/-- A move of HOST or ENV; `wait` and `block` are turns of BLOCK and are taken by `step`. -/
def outsideMove (m : Move) (s : State) : Out :=
  match m with
  | .writeHR n v => hostWrite n v s
  | .readHR n => if (hostRead s n).isSome then .next s else .refused .noSuchHostRegister
  | .writePBUF i v => hostWritePbuf i v s
  | .readPBUF i =>
    if s.busy then .refused .hostMoveWhileBusy
    else if (hostReadPbuf s i).isSome then .next s
    else .fault .pbufIndexOutside
  | .writeIMG a v => hostWriteImg a v s
  | .wait => .next s
  | .block => .next s
  | .stopComplete => if s.bt.stp then .next (stopComplete s) else .refused .envMoveNotEnabled
  | .foreignBusy =>
    if !s.bt.bb && !s.bt.stp && !s.inTransaction then .next (setBusy true s) else .refused .envMoveNotEnabled
  | .foreignIdle => if s.bt.bb && !s.inTransaction then .next (setBusy false s) else .refused .envMoveNotEnabled
  | .resetBlock => .next (resetBlock s)

/-! ### Fetch -/

/-- Whether the record loop of an image is at a record: at its head or inside one. -/
def Phase.inImage : Phase → Bool
  | .image | .record _ _ => true
  | _ => false

/-- The instruction whose primitive is next: the record at IPOS while the record loop is at one (R31, R206), and else
the command in CMDR (R119). -/
def fetch (s : State) : Option Instr :=
  if s.seq.phase.inImage then
    match fetchRecord s with
    | .ok (i, _) => some i
    | .error _ => (decodeDescriptor s.cmdr).toOption
  else (decodeDescriptor s.cmdr).toOption

/-! ### Placing a word for the next fetch (log entry 10) -/

/-- A descriptor handed to the block: the host's CMD write has just been accepted and no other move comes first. -/
def placeDescriptor (d : Descriptor) (s : State) : State := { acceptCommand d s with moves := [] }

/-- A record handed to the block: IMG holds it at address 0 and a UPIMG of exactly that record stands at its head. -/
def placeRecord (bytes : List Byte) (s : State) : State :=
  let len := recordSize bytes
  { s with
    cmdr := put 0x21#8 56 ||| put (BitVec.ofNat 16 len) 24
    busy := true
    result := { s.result with valid := false }
    img := Memory.writeAll s.img 0 (bytes.take len)
    fp := { s.fp with ipos := 0, iend := BitVec.ofNat 17 len }
    seq := { s.seq with phase := .image, imgVerify := false }
    moves := [] }

/-- An instruction of the opcode table, `nbits` bits `w`, placed where the next step fetches it. -/
def placeWord (nbits w : Nat) (s : State) : State :=
  if nbits = 64 then placeDescriptor (BitVec.ofNat 64 w) s else placeRecord (recordBytes nbits w) s

end Sys2Proof.Machine
end

