-- ==== Sys2Proof/Machine/Step.lean ====
section
/-! DEFINITION. One step of the machine: the agent whose move is next takes it (R16). -/

namespace Sys2Proof.Machine

/-- BLOCK's turn: nothing when no command runs (R310), else the next primitive of the fetched instruction; a CMD write
that decodes to none ends with ILLEGAL_COMMAND (R119). -/
def blockTurn (s : State) : Out :=
  match s.seq.phase with
  | .idle => .next s
  | _ =>
    match fetch s with
    | some i => exec i s
    | none => .next (rejectCommand s)

/-- The turn when no move is scheduled: BLOCK's, but ENV's where HardwareResolves holds and STP or BB lingers (R93). -/
def defaultTurn (s : State) : Out := if s.lingers && s.env.resolves then .next (liftHold s) else blockTurn s

/-- One step. RefDev completes a STOP before anything else happens (R95). A scheduled move of HOST or ENV is taken;
`wait` stands until the running command has ended; `block` gives BLOCK a turn; with nothing scheduled the default turn
is taken. -/
def step (s : State) : Host.Outcome State Fault Refusal :=
  if !cfgLegal s.cfg then .refused .configurationOutOfRange
  else if s.refDevDue then .next (stopComplete s)
  else
    match s.moves with
    | [] => defaultTurn s
    | .wait :: rest => if s.busy then defaultTurn s else .next { s with moves := rest }
    | .block :: rest => blockTurn { s with moves := rest }
    | m :: rest => outsideMove m { s with moves := rest }

/-- `s` with an instruction of the opcode table where the next step fetches it (log entry 10). -/
def State.withFetchWord (s : State) (nbits w : Nat) : State := placeWord nbits w s

end Sys2Proof.Machine
end

