-- ==== Sys2Proof/Safety.lean ====
section
/-! DEFINITION. What counts as a safe run, in the terms the statements use: which command phases belong to which
instruction, several steps of one instruction, the invariants a step keeps, the codes a command may end with, and the
parts of the state an instruction leaves alone. -/

namespace Sys2Proof.Machine

/-! ### Instructions and their phases -/

/-- Whether the transaction of a call site is a `BT_Read` (R152, R153). -/
def siteReads : Site → Bool
  | .rdb | .rdbit | .rmwRead | .upVRead | .identity | .fifoCount | .intStatus | .ovfRead | .packet | .temp => true
  | .wrb | .rmwWrite | .devWrite | .upSelect | .upAddr | .upData | .upVSelect | .upVAddr | .intEnable | .ovfWrite =>
    false

/-- Whether a place belongs to the procedure that a call site runs. -/
def siteMatches (k : Site) : XferAt → Bool
  | .w _ => !siteReads k
  | .r _ => siteReads k

/-- Whether a call site is one of an instruction's (`40_` to `43_`). -/
def ownsSite : Instr → Site → Bool
  | .init, _ => false
  | .wrb _ _ _, k => k == .wrb
  | .rdb _ _ _, k => k == .rdb
  | .rdbit _ _ _, k => k == .rdbit
  | .wrbit _ _ _ _, k => k == .rmwRead || k == .rmwWrite
  | .wrbf _ _ _ _ _, k => k == .rmwRead || k == .rmwWrite
  | .dwb _ _, k => k == .devWrite
  | .dwbf _ _ _ _, k => k == .rmwRead || k == .rmwWrite
  | .selbank _ _ _, k => k == .devWrite
  | .setaddr _, k => k == .devWrite
  | .upblk _ _ _ _ _, k => k.ofUpload
  | .upimg _ _ _, _ => false
  | .setup, k => k == .identity
  | .rdsmp, k => k.ofSample
  | .rdavg _, k => k.ofSample
  | .recData _ _ _, k => k.ofUpload
  | .recSpcInten _ _, k => k == .intEnable

/-- Whether a command interprets a firmware image (R207, R232). -/
def runsImage : Instr → Bool
  | .upimg _ _ _ | .setup => true
  | .init | .wrb _ _ _ | .rdb _ _ _ | .rdbit _ _ _ | .wrbit _ _ _ _ | .wrbf _ _ _ _ _ => false
  | .dwb _ _ | .dwbf _ _ _ _ | .selbank _ _ _ | .setaddr _ | .upblk _ _ _ _ _ | .rdsmp | .rdavg _ => false
  | .recData _ _ _ | .recSpcInten _ _ => false

/-- Whether a command phase is one of an instruction's own. -/
def phaseFits (i : Instr) : Phase → Bool
  | .idle => false
  | .accepted => i.isCommand
  | .cmd k x => i.isCommand && ownsSite i k && siteMatches k x
  | .image => runsImage i || !i.isCommand
  | .record k x => !i.isCommand && ownsSite i k && siteMatches k x
  | .imageDone _ => runsImage i
  | .ending _ => i.isCommand

/-- `n` steps of one instruction, with no move of HOST or ENV between them. -/
def execTimes : Nat → Instr → State → Out
  | 0, _, s => .next s
  | n + 1, i, s =>
    match exec i s with
    | .next t => execTimes n i t
    | .fault f => .fault f
    | .refused r => .refused r

/-! ### Terms of the completion statements -/

/-- A command has been accepted and its checks come next (R22). -/
def accepted (s : State) : Prop := s.seq.phase = .accepted

/-- No hold: the guard of `Start` is open (R143). -/
def busFree (s : State) : Prop := s.bt.stp = false ∧ s.bt.bb = false

/-- The step takes the move at the head of the agenda: the configuration is one (R312), and no StopComplete of RefDev
comes first (R95). -/
def agendaTurn (s : State) : Prop := cfgLegal s.cfg = true ∧ s.refDevDue = false

/-- The default turn comes next: no move is scheduled, or `wait` stands until the running command has ended (R129). -/
def defaultDue (s : State) : Prop := s.moves = [] ∨ s.busy = true ∧ ∃ rest, s.moves = .wait :: rest

/-- The instruction that stands where the block fetches: inside the record loop of an image the record at IPOS, where one
stands there (R206), and else the command in CMDR (R119). -/
def fetches (s : State) (i : Instr) : Prop :=
  s.seq.phase.inImage = false ∧ decodeDescriptor s.cmdr = .ok i ∨
  s.seq.phase.inImage = true ∧ (∃ rest, fetchRecord s = .ok (i, rest)) ∨
  s.seq.phase.inImage = true ∧ (∃ e, fetchRecord s = .error e) ∧ decodeDescriptor s.cmdr = .ok i

/-- STP and BB have been cleared, and nothing else has changed (R91, R92). -/
def withBusFreed (s : State) : State := { s with bt := { s.bt with stp := false, bb := false } }

/-- The values that R37 states for the state after reset; PBUF and IMG hold no byte that anything has written. -/
def holdsResetValues (t : State) : Prop :=
  t.cmdr = 0 ∧ t.busy = false ∧ t.seq.phase = .idle ∧ statusWord t = 0 ∧ resultWord t = 0 ∧ t.result = Result.zero ∧
  t.ae.devstat = .disconnected ∧
  (t.bt.sa = 0 ∧ t.bt.rega = 0 ∧ t.bt.cnt = 0 ∧ t.bt.bcnt = 0 ∧ t.bt.retry = false ∧ t.bt.tmpb = 0) ∧
  (t.fp.curbank = 0 ∧ t.fp.curoff = 0 ∧ t.fp.remain = 0 ∧ t.fp.srcptr = 0 ∧ t.fp.chunklen = 0 ∧
    t.fp.verify = false ∧ t.fp.ipos = 0 ∧ t.fp.iend = 0) ∧
  (t.ae.idtry = 0 ∧ t.ae.fifocnt = 0 ∧ t.ae.intstat = 0 ∧ t.ae.avgn = 0 ∧ t.ae.avgi = 0) ∧
  t.smpStatus = false ∧ t.trace = [] ∧
  ∀ a, Memory.read t.pbuf a = none ∧ Memory.read t.img a = none

/-- The next primitive of a transaction procedure is the one after which it returns `Fail(c)`, with the answer that
ENV has ready: arbitration is lost at a Start or at a transmitted byte; the STOP of a write's second refused attempt, of
a refused payload byte or of a refused read is requested; or the timeout is recovered (R147, R151 to R153). -/
def xferFails (s : State) (x : XferAt) (c : Code) : Prop :=
  match x with
  | .w .start | .r .start1 | .r .start2 => busFree s ∧ (∃ rest, s.env.addr = .arblost :: rest) ∧ c = .arbLost
  | .w .reg | .r .reg => (∃ rest, s.env.tx = .arblost :: rest) ∧ c = .arbLost
  | .w .data => s.seq.txbuf ≠ [] ∧ (∃ rest, s.env.tx = .arblost :: rest) ∧ c = .arbLost
  | .w .nackStop => s.bt.retry = true ∧ c = .busNack
  | .w .payloadStop | .r .nackStop => c = .busNack
  | .r .timeout => c = .busTimeout
  | .r .poll | .r .stop1 | .r .rx | .r .stop2 => False

/-- A command stands in the transaction of one of its call sites, where the next primitive makes it return `Fail(c)`. -/
def commandFails (i : Instr) (s : State) (k : Site) (x : XferAt) (c : Code) : Prop :=
  s.seq.phase = .cmd k x ∧ ownsSite i k = true ∧ siteMatches k x = true ∧ xferFails s x c

/-- RESULT after `fail CODE cause C` (R275). -/
def failedWith (code cause : Code) : Result := ⟨code, cause, false, true⟩

/-- RESULT after `succeed with RBIT = b` (R276). -/
def succeededWith (rbit : Bool) : Result := ⟨.ok, .ok, rbit, true⟩

/-- The state in which a command has ended with a result and nothing else has changed (R275, R276). -/
def endedWith (r : Result) (s : State) : State :=
  { s with result := r, busy := false, seq := { s.seq with phase := .idle } }

/-- The operand checks of the commands (R121 (d), R154, R155, R159, R182, R203, R207, R250). -/
def operandsLegal (c : Cfg) : Instr → Bool
  | .wrb _ _ cnt => cnt.toNat ≤ c.pbufSize
  | .rdb _ _ cnt => 1 ≤ cnt.toNat && cnt.toNat ≤ c.pbufSize
  | .wrbf _ _ start width _ => 1 ≤ width.toNat && start.toNat + width.toNat ≤ 8
  | .dwbf _ start width _ => 1 ≤ width.toNat && start.toNat + width.toNat ≤ 8
  | .upblk _ bank offs size src =>
    src.toNat + size.toNat ≤ c.imgSize && bank.toNat * 256 + offs.toNat + size.toNat ≤ 8192
  | .upimg _ len src => src.toNat + len.toNat ≤ c.imgSize
  | .rdavg n => n ≠ 0
  | .init | .rdbit _ _ _ | .wrbit _ _ _ _ | .dwb _ _ | .selbank _ _ _ | .setaddr _ | .setup | .rdsmp => true
  | .recData _ _ _ | .recSpcInten _ _ => true

/-- The commands that run CheckInit (R140). -/
def checksInit : Instr → Bool
  | .wrb _ _ _ | .rdb _ _ _ | .rdbit _ _ _ | .wrbit _ _ _ _ | .wrbf _ _ _ _ _ => true
  | .dwb _ _ | .dwbf _ _ _ _ | .selbank _ _ _ | .setaddr _ | .upblk _ _ _ _ _ | .upimg _ _ _ => true
  | .init | .setup | .rdsmp | .rdavg _ | .recData _ _ _ | .recSpcInten _ _ => false

/-- The commands that require DEVSTAT = DMPReady (R231). -/
def readsSample : Instr → Bool
  | .rdsmp | .rdavg _ => true
  | .init | .wrb _ _ _ | .rdb _ _ _ | .rdbit _ _ _ | .wrbit _ _ _ _ | .wrbf _ _ _ _ _ => false
  | .dwb _ _ | .dwbf _ _ _ _ | .selbank _ _ _ | .setaddr _ | .upblk _ _ _ _ _ | .upimg _ _ _ | .setup => false
  | .recData _ _ _ | .recSpcInten _ _ => false

/-- The read-modify-write commands: slave address, register, start, width and value (R158, R159, R182). -/
def rmwOperands (c : Cfg) : Instr → Option (BitVec 7 × Byte × Nat × Nat × Byte)
  | .wrbf sa reg start width value => some (sa, reg, start.toNat, width.toNat, value)
  | .wrbit sa reg bit v => some (sa, reg, bit.toNat, 1, v.setWidth 8)
  | .dwbf reg start width value => some (c.dev.devaddr, reg, start.toNat, width.toNat, value)
  | .init | .wrb _ _ _ | .rdb _ _ _ | .rdbit _ _ _ | .dwb _ _ | .selbank _ _ _ | .setaddr _ => none
  | .upblk _ _ _ _ _ | .upimg _ _ _ | .setup | .rdsmp | .rdavg _ | .recData _ _ _ | .recSpcInten _ _ => none

/-- The commands that are one byte write at the device address: register and byte (R181, R183, R184). -/
def devWriteOperands (c : Cfg) : Instr → Option (Byte × Byte)
  | .dwb reg value => some (reg, value)
  | .selbank bank pf ub => some (c.dev.raBankSel, bankByte bank pf ub)
  | .setaddr offs => some (c.dev.raMemStartAddr, offs)
  | .init | .wrb _ _ _ | .rdb _ _ _ | .rdbit _ _ _ | .wrbit _ _ _ _ | .wrbf _ _ _ _ _ | .dwbf _ _ _ _ => none
  | .upblk _ _ _ _ _ | .upimg _ _ _ | .setup | .rdsmp | .rdavg _ | .recData _ _ _ | .recSpcInten _ _ => none

/-- The trace of a `BT_Write` that is acknowledged throughout (R152). -/
def writeTrace (sa : BitVec 7) (reg : Byte) (data : List Byte) : List Event :=
  [.start, .addr sa .write .ack, .tx reg .ack] ++ data.map (fun b => .tx b .ack) ++ [.stop]

/-- The trace of phase 1 of a `BT_Read` that is acknowledged and ready (R153). -/
def readTraceFirst (sa : BitVec 7) (reg : Byte) : List Event :=
  [.start, .addr sa .write .ack, .tx reg .ack, .ready true, .stop]

/-- The trace of phase 2 of a `BT_Read` that is acknowledged (R153). -/
def readTraceSecond (sa : BitVec 7) (buf : List Byte) : List Event :=
  [.start, .addr sa .read .ack] ++ buf.map .rx ++ [.stop]

/-- The trace of a block upload without verify that is acknowledged throughout, from linear DMEM address `a` (R202,
R204): per chunk one bank select, one start address, one data write. The first argument bounds the chunks. -/
def uploadTrace (c : Cfg) : Nat → Nat → List Byte → List Event
  | 0, _, _ => []
  | n + 1, a, bytes =>
    if bytes = [] then []
    else
      let len := chunkLen c.chunk bytes.length (a % 256)
      writeTrace c.dev.devaddr c.dev.raBankSel [bankByte (BitVec.ofNat 5 (a / 256)) 0 0] ++
      writeTrace c.dev.devaddr c.dev.raMemStartAddr [BitVec.ofNat 8 a] ++
      writeTrace c.dev.devaddr c.dev.raMemRW (bytes.take len) ++
      uploadTrace c n (a + len) (bytes.drop len)

/-- From `s` to `t` exactly these bus events have happened (R85). -/
def traced (s : State) (es : List Event) (t : State) : Prop := t.trace = s.trace ++ es

/-- From `s` to `t` a `BT_Read` at the device address has been entered at call site `k`: SA, REGA and CNT are loaded,
phase 1 is set up for its one register byte, nothing is received yet, and its first Start comes next (R153, R160,
R180). `here` says whether a command or a record is the caller. -/
def beginsDevRead (here : Site → XferAt → Phase) (k : Site) (reg : Byte) (n : Nat) (s t : State) : Prop :=
  t.seq.phase = here k (.r .start1) ∧ t.seq.rbuf = [] ∧
  (t.bt.sa = s.cfg.dev.devaddr ∧ t.bt.rega = reg ∧ t.bt.cnt.toNat = n) ∧
  (t.bt.rm = false ∧ t.bt.bcnt = 1) ∧ t.bt.nack = false ∧ t.bt.arbl = false ∧ t.bt.ardy = false

/-- From `s` to `t` a `BT_Write` of these bytes at the device address has been entered at call site `k`: SA, REGA and CNT
are loaded, no retry is spent, and its first Start comes next (R152, R160, R180). -/
def beginsDevWrite (here : Site → XferAt → Phase) (k : Site) (reg : Byte) (data : List Byte) (s t : State) : Prop :=
  t.seq.phase = here k (.w .start) ∧ t.seq.txbuf = data ∧
  (t.bt.sa = s.cfg.dev.devaddr ∧ t.bt.rega = reg ∧ t.bt.cnt.toNat = data.length) ∧
  (t.bt.rm = true ∧ t.bt.retry = false) ∧ t.bt.nack = false ∧ t.bt.arbl = false ∧ t.bt.ardy = false

/-- BB, STP and the mode bits MST and TRX are the same (R27, R28). -/
def sameWire (s t : State) : Prop :=
  t.bt.bb = s.bt.bb ∧ t.bt.stp = s.bt.stp ∧ t.bt.mst = s.bt.mst ∧ t.bt.trx = s.bt.trx

/-- The bus registers after BusReset and BusInit: the clock registers from CFG, INITD, IRS and MST 1, and every other
flag and counter 0 (R141, R142). -/
def busInitialised (c : Cfg) (b : BusRegs) : BusRegs :=
  { b with
    bcnt := 0, retry := false, clkpsc := c.clkPsc, clkl := c.clkLow, clkh := c.clkHigh,
    initd := true, mst := true, trx := false, rm := false, qen := false, irs := true,
    bb := false, stp := false, ardy := false, nack := false, arbl := false }

/-- The byte that `Tx` sends at a place of a transaction procedure, where one does (R145, R152, R153). -/
def byteSent (s : State) : XferAt → Option Byte
  | .w .reg | .r .reg => some s.bt.rega
  | .w .data => s.seq.txbuf.head?
  | .w .start | .w .nackStop | .w .payloadStop => none
  | .r .start1 | .r .poll | .r .timeout | .r .stop1 | .r .start2 | .r .rx | .r .stop2 | .r .nackStop => none

/-- Arbitration has been lost at call site `k`: MST and TRX are 0 (R147), and ARBL is 1, except where SETUP's identity
check has an attempt left: there that attempt begins, and its head clears ARBL (R160, R233). -/
def arbitrationLost (k : Site) (s t : State) : Prop :=
  (t.bt.mst = false ∧ t.bt.trx = false) ∧
  ((k = .identity → (s.ae.idtry + 1).toNat = s.cfg.idRetryMax) → t.bt.arbl = true) ∧
  (k = .identity → (s.ae.idtry + 1).toNat ≠ s.cfg.idRetryMax →
    t.bt.arbl = false ∧ t.ae.idtry = s.ae.idtry + 1 ∧ beginsDevRead .cmd .identity s.cfg.dev.raWhoAmI 1 s t)

/-- From `s` to `t` the byte `b` has been transmitted and answered: a NACK sets NACK, an acknowledge leaves the flags
(R29, R145, R147). -/
def byteAnswered (k : Site) (b : Byte) (ans : Answer) (s t : State) : Prop :=
  traced s [.tx b ans] t ∧ t.bt.bb = s.bt.bb ∧ t.bt.stp = s.bt.stp ∧
  (ans ≠ .arblost → sameWire s t ∧ t.bt.arbl = s.bt.arbl ∧ t.bt.nack = (s.bt.nack || decide (ans = .nack))) ∧
  (ans = .arblost → arbitrationLost k s t)

/-- From `s` to `t` the readiness condition has been polled, with this outcome: success sets ARDY (R29, R149). -/
def polled (ok : Bool) (s t : State) : Prop :=
  traced s [.ready ok] t ∧ t.bt.ardy = (s.bt.ardy || ok) ∧ t.bt.nack = s.bt.nack ∧ t.bt.arbl = s.bt.arbl ∧ sameWire s t

/-- From `s` to `t` the timeout recovery has run: a STOP, a controller reset and an initialisation (R151). -/
def recovered (s t : State) : Prop :=
  traced s [.stop, .reset, .init] t ∧ (t.bt.initd = true ∧ t.bt.irs = true ∧ t.bt.mst = true ∧ t.bt.trx = false) ∧
  (t.bt.stp = false ∧ t.bt.bb = false) ∧ (t.bt.ardy = false ∧ t.bt.nack = false ∧ t.bt.arbl = false) ∧
  t.bt.clkpsc = s.cfg.clkPsc ∧ t.bt.clkl = s.cfg.clkLow ∧ t.bt.clkh = s.cfg.clkHigh

/-- From `s` to `t` a STOP has been requested and is the one bus event: STP is 1, TRX 0, BB and MST as before (R148,
R153). -/
def stopRequested (s t : State) : Prop :=
  traced s [.stop] t ∧ t.bt.stp = true ∧ t.bt.trx = false ∧ t.bt.bb = s.bt.bb ∧ t.bt.mst = s.bt.mst

/-- Which byte of the first attempt of a `BT_Write` is not acknowledged, so that the one retry follows (R152). -/
inductive FirstNack
  | address
  | register
  deriving DecidableEq, Repr

/-- ENV refuses the first attempt so, and has these address and byte answers ready for the retry. -/
def FirstNack.answers (n : FirstNack) (addrs txs : List Answer) (e : Env) : Prop :=
  match n with
  | .address => e.addr = .nack :: addrs ∧ e.tx = txs
  | .register => e.addr = .ack :: addrs ∧ e.tx = .nack :: txs

/-- The steps of a command from its acceptance to the end of the refused attempt, its STOP requested. They are also the
steps of a second attempt that is refused in the same way, to the end of the command. -/
def FirstNack.steps : FirstNack → Nat
  | .address => 3
  | .register => 4

/-- The bus events of the refused attempt. -/
def FirstNack.trace (sa : BitVec 7) (reg : Byte) : FirstNack → List Event
  | .address => [.start, .addr sa .write .nack, .stop]
  | .register => [.start, .addr sa .write .ack, .tx reg .nack, .stop]

/-- The bus events of a `BT_Write` whose payload byte after `sent` has this answer, and no later byte (R147, R152). -/
def cutShortTrace (sa : BitVec 7) (reg : Byte) (sent : List Byte) (last : Byte) (ans : Answer) : List Event :=
  [.start, .addr sa .write .ack, .tx reg .ack] ++ sent.map (fun b => .tx b .ack) ++ [.tx last ans]

/-- The bus registers after a transaction that ended with its STOP requested: SA, REGA and CNT as loaded, master and
receiver again, sticky flags clear, STP and BB set until ENV's StopComplete (R152, R153, R161). -/
def busAfter (b : BusRegs) (sa : BitVec 7) (reg : Byte) (cnt : BitVec 16) : BusRegs :=
  { b with
    sa := sa, rega := reg, cnt := cnt, mst := true, trx := false, nack := false, arbl := false, ardy := false,
    bb := true, stp := true }

/-! ### Invariants -/

/-- Whether a phase is one in which the command may use the bus. -/
def Phase.usesBus : Phase → Bool
  | .cmd _ _ | .image | .record _ _ | .imageDone _ => true
  | .idle | .accepted | .ending _ => false

/-- BUSY tells whether a command runs; RESULT is not valid while one does; QEN is 0; the controller is out of reset
exactly when it is initialised; DEVSTAT beyond Disconnected and a command that uses the bus both imply INITD = 1
(R23, R24, R27, R140, R240). -/
def controlInv (s : State) : Prop :=
  (s.busy = true ↔ s.seq.phase ≠ .idle) ∧
  (s.busy = true → s.result.valid = false) ∧
  s.bt.qen = false ∧
  s.bt.irs = s.bt.initd ∧
  (s.ae.devstat ≠ .disconnected → s.bt.initd = true) ∧
  (s.seq.phase.usesBus = true → s.bt.initd = true)

/-- The chunk of a running block upload: at least one byte, inside the remaining block, inside its bank, and the block
inside DMEM and IMG (R201, R202, R204, R255). -/
def chunkInv (s : State) : Prop :=
  1 ≤ s.fp.chunklen.toNat ∧
  s.fp.chunklen.toNat ≤ s.fp.remain.toNat ∧
  s.fp.chunklen.toNat ≤ s.cfg.chunk ∧
  s.fp.curoff.toNat + s.fp.chunklen.toNat ≤ bankSize ∧
  linearAddr s.fp.curbank.toNat s.fp.curoff.toNat + s.fp.remain.toNat ≤ bankCount * bankSize ∧
  s.fp.srcptr.toNat + s.fp.remain.toNat ≤ s.cfg.imgSize

/-- The record cursor inside the image, and the image inside IMG (R31). -/
def cursorInv (s : State) : Prop := s.fp.ipos.toNat ≤ s.fp.iend.toNat ∧ s.fp.iend.toNat ≤ s.cfg.imgSize

/-- What holds of the FirmwareProgrammer registers in each phase. -/
def uploadInv (s : State) : Prop :=
  match s.seq.phase with
  | .cmd k _ => k.ofUpload = true → chunkInv s
  | .image => cursorInv s
  | .record k _ => cursorInv s ∧ (k.ofUpload = true → chunkInv s)
  | .imageDone _ => cursorInv s
  | .idle | .accepted | .ending _ => True

/-- The byte counter and the received bytes at each place of a transaction procedure: a write is in repeat mode; a read
is not, counts its register byte and then its CNT bytes, and the counter ends at 0 and never passes below it
(R27, R153, R255). -/
def counterInv (s : State) : XferAt → Prop
  | .w _ => s.bt.rm = true
  | .r .start1 | .r .reg => s.bt.rm = false ∧ 1 ≤ s.bt.cnt.toNat ∧ s.bt.bcnt = 1 ∧ s.seq.rbuf = []
  | .r .poll | .r .stop1 => s.bt.rm = false ∧ 1 ≤ s.bt.cnt.toNat ∧ s.bt.bcnt = 0 ∧ s.seq.rbuf = []
  | .r .start2 => s.bt.rm = false ∧ 1 ≤ s.bt.cnt.toNat ∧ s.bt.bcnt = s.bt.cnt ∧ s.seq.rbuf = []
  | .r .rx => s.bt.rm = false ∧ 1 ≤ s.bt.bcnt.toNat ∧ s.seq.rbuf.length + s.bt.bcnt.toNat = s.bt.cnt.toNat
  | .r .stop2 => s.bt.rm = false ∧ s.bt.bcnt = 0 ∧ s.seq.rbuf.length = s.bt.cnt.toNat
  | .r .timeout | .r .nackStop => s.bt.rm = false

/-- The counter invariant of whatever transaction is running. -/
def transferInv (s : State) : Prop :=
  match s.seq.phase with
  | .cmd k x | .record k x => siteMatches k x = true ∧ counterInv s x
  | _ => True

/-- PBUF and IMG are in their canonical form. -/
def memoryInv (s : State) : Prop := Memory.wf s.pbuf = true ∧ Memory.wf s.img = true

/-- The command in CMDR, if it is one (R119). -/
def commandOf (s : State) : Option Instr := (decodeDescriptor s.cmdr).toOption

/-- The command in CMDR interprets an image. -/
def imageCommand (s : State) : Prop := ∃ i, commandOf s = some i ∧ runsImage i = true

/-- The command phase is one of the command in CMDR, or of the record at IPOS inside a command that interprets an
image. -/
def phaseInv (s : State) : Prop :=
  match s.seq.phase with
  | .idle | .accepted => True
  | .cmd k x => ∃ i, commandOf s = some i ∧ phaseFits i (.cmd k x) = true
  | .image | .imageDone _ => imageCommand s
  | .record k x => imageCommand s ∧ ∃ r rest, fetchRecord s = .ok (r, rest) ∧ phaseFits r (.record k x) = true
  | .ending _ => ∃ i, commandOf s = some i

/-! ### The codes a command may end with (R273) -/

/-- R273's columns marked x: whether a command can end with a code as RESULT.CODE. -/
def mayEndWith : Instr → Code → Bool
  | .init, c => c == .ok
  | .wrb _ _ _, c => c ∈ [.ok, .busNack, .arbLost, .illegalOperand, .notReady]
  | .rdb _ _ _, c => c ∈ [.ok, .busTimeout, .busNack, .arbLost, .illegalOperand, .notReady]
  | .rdbit _ _ _, c => c ∈ [.ok, .busTimeout, .busNack, .arbLost, .notReady]
  | .wrbit _ _ _ _, c => c ∈ [.ok, .busTimeout, .busNack, .arbLost, .notReady]
  | .wrbf _ _ _ _ _, c => c ∈ [.ok, .busTimeout, .busNack, .arbLost, .illegalOperand, .notReady]
  | .dwb _ _, c => c ∈ [.ok, .busNack, .arbLost, .notReady]
  | .dwbf _ _ _ _, c => c ∈ [.ok, .busTimeout, .busNack, .arbLost, .illegalOperand, .notReady]
  | .selbank _ _ _, c => c ∈ [.ok, .busNack, .arbLost, .notReady]
  | .setaddr _, c => c ∈ [.ok, .busNack, .arbLost, .notReady]
  | .upblk _ _ _ _ _, c => c ∈ [.ok, .fwUploadFailed, .illegalOperand, .notReady]
  | .upimg _ _ _, c => c ∈ [.ok, .fwUploadFailed, .illegalOperand, .notReady]
  | .setup, c => c ∈ [.ok, .deviceNotResponding, .dmpInitFailed]
  | .rdsmp, c => c ∈ [.ok, .busTimeout, .busNack, .arbLost, .notReady]
  | .rdavg _, c => c ∈ [.ok, .busTimeout, .busNack, .arbLost, .illegalOperand, .notReady]
  | .recData _ _ _, _ => false
  | .recSpcInten _ _, _ => false

/-- The result code of an ending. -/
def Ending.code : Ending → Code
  | .succeed _ => .ok
  | .fail c _ => c

/-! ### Frames -/

/-- Every byte of PBUF reads as before. -/
def samePbuf (s t : State) : Prop := ∀ a, t.pbufByte a = s.pbufByte a

/-- Every byte of IMG reads as before. -/
def sameImg (s t : State) : Prop := ∀ a, t.imgByte a = s.imgByte a

/-- A command goes to its failure with the code of a transaction that has failed: no other transaction is begun, and
PBUF, TMPB and the units above BusTransport are as they were (`if r = Fail(c) then fail c`, R278). -/
def goesToFailure (c : Code) (s t : State) : Prop :=
  t.seq.phase = .ending (.fail c .ok) ∧ samePbuf s t ∧ t.bt.tmpb = s.bt.tmpb ∧ t.fp = s.fp ∧ t.ae = s.ae

/-- A command has ended with BUS_NACK: its STOP is requested, NACK is handled, and PBUF is as it was (R152, R153, R278). -/
def endedByNack (s t : State) : Prop :=
  t.result = failedWith .busNack .ok ∧ t.busy = false ∧
  (t.bt.nack = false ∧ t.bt.stp = true ∧ t.bt.bb = true) ∧ samePbuf s t

/-- A command has ended with ARB_LOST: no STOP, MST and TRX 0, ARBL and BB 1, and PBUF is as it was (R147, R278). -/
def endedByArbitration (s t : State) : Prop :=
  t.result = failedWith .arbLost .ok ∧ t.busy = false ∧
  (t.bt.arbl = true ∧ t.bt.bb = true ∧ t.bt.stp = false ∧ t.bt.mst = false ∧ t.bt.trx = false) ∧ samePbuf s t

/-- CFG, the descriptor latch, the reset count and the moves to come are as before: no instruction writes them. -/
def sameFixed (s t : State) : Prop := t.cfg = s.cfg ∧ t.cmdr = s.cmdr ∧ t.epoch = s.epoch ∧ t.moves = s.moves

/-- The sample registers SMP_STATUS and SMP0..SMP10 are as before (R33). -/
def sameSample (s t : State) : Prop := t.smpStatus = s.smpStatus ∧ t.smp = s.smp

/-- RDAVG's registers AVGN, AVGI and ACC are as before (R34). -/
def sameAverages (s t : State) : Prop := t.ae.avgn = s.ae.avgn ∧ t.ae.avgi = s.ae.avgi ∧ t.ae.acc = s.ae.acc

/-- TRACE is as before with events appended (R85). -/
def traceGrows (s t : State) : Prop := ∃ es, t.trace = s.trace ++ es

/-- The controller's configuration, INITD, QEN and IRS are as before. -/
def sameController (s t : State) : Prop :=
  t.bt.clkpsc = s.bt.clkpsc ∧ t.bt.clkl = s.bt.clkl ∧ t.bt.clkh = s.bt.clkh ∧ t.bt.initd = s.bt.initd ∧
  t.bt.qen = s.bt.qen ∧ t.bt.irs = s.bt.irs

/-- The instructions that never write TMPB: all but RDBIT, the read-modify-write commands and the sample commands with
their FIFO reset (R26, R157, R159, R242). -/
def keepsByte : Instr → Bool
  | .rdbit _ _ _ | .wrbit _ _ _ _ | .wrbf _ _ _ _ _ | .dwbf _ _ _ _ | .rdsmp | .rdavg _ => false
  | .init | .wrb _ _ _ | .rdb _ _ _ | .dwb _ _ | .selbank _ _ _ | .setaddr _ | .upblk _ _ _ _ _ | .upimg _ _ _ => true
  | .setup | .recData _ _ _ | .recSpcInten _ _ => true

/-- The eleven fields of a sample in their order (R33). -/
def Sample.fields (v : Sample) : List Num :=
  [v.roll, v.pitch, v.yaw, v.rollRate, v.pitchRate, v.yawRate, v.xAccel, v.yAccel, v.zAccel, v.accelMag,
    v.temperature]

/-- The sample holds the values of the formulas of R244 to R246 for these raw fields and this raw temperature, in an
instantiation of CFG.NUM and CFG.OM. -/
def holdsPhysical {α : Type} (m : NumModel α) (c : Cfg) (r : RawFields) (rawt : BitVec 16) (v : Sample) : Prop :=
  let q : Quat := ⟨r.qw, r.qx, r.qy, r.qz⟩
  let gx := m.gravity .x q
  let gy := m.gravity .y q
  let gz := m.gravity .z q
  let accel := numEval m c.accelLsbPerG
  let ax := m.sub (m.div (m.ofInt r.ax.toInt) accel) gx
  let ay := m.sub (m.div (m.ofInt r.ay.toInt) accel) gy
  let az := m.sub (m.div (m.ofInt r.az.toInt) accel) gz
  let tempC := m.add (m.div (m.ofInt rawt.toInt) (numEval m c.tempSlopeDiv)) (m.ofDec 3653 2)
  numEval m v.roll = m.rad2deg (m.ypr .roll q gx gy gz) ∧
  numEval m v.pitch = m.rad2deg (m.ypr .pitch q gx gy gz) ∧
  numEval m v.yaw = m.rad2deg (m.ypr .yaw q gx gy gz) ∧
  numEval m v.rollRate = m.div (m.ofInt r.gx.toInt) (numEval m c.gyroSens) ∧
  numEval m v.pitchRate = m.div (m.ofInt r.gy.toInt) (numEval m c.gyroSens) ∧
  numEval m v.yawRate = m.div (m.ofInt r.gz.toInt) (numEval m c.gyroSens) ∧
  numEval m v.xAccel = ax ∧ numEval m v.yAccel = ay ∧ numEval m v.zAccel = az ∧
  numEval m v.accelMag = m.sqrt (m.add (m.add (m.mul ax ax) (m.mul ay ay)) (m.mul az az)) ∧
  numEval m v.temperature = m.add (m.div (m.mul tempC (m.ofInt 9)) (m.ofInt 5)) (m.ofInt 32)

end Sys2Proof.Machine
end

