-- ==== Sys2Proof/Certificates/Slice0/Obligations.lean ====
section
/-! DEFINITION. The statements for the provers. A state `s` is any state: the answers ENV has ready are part of it, so a
hypothesis on `s.env` names the answers that are drawn, and where none is named the statement holds for every answer
(log entry 1). Four forms are the model's and stand in the log: a move of HOST or ENV is the head of `s.moves` (2), a
hold is a step that changes nothing (5), a step is one bus primitive with the assignments up to the next one (5), and
`execTimes` runs that many of them (5). -/

open Sys2Proof Sys2Proof.Machine

/-! ## Encoding -/

/-- Decode and encode agree on every instruction that has an encoding (R110 to R119, R123, R124): no bit of an operand
is dropped. -/
def Obligations.DecodeEncodeAgree : Prop :=
  ∀ i : Instr, i.wellFormed = true → decode (encode i) = .ok i

/-- A descriptor that decodes is the encoding of the command it decodes to (R110, R118). -/
def Obligations.DecodedDescriptorReencodes : Prop :=
  ∀ (d : Descriptor) (i : Instr), decodeDescriptor d = .ok i → encode i = .descriptor d ∧ i.isCommand = true

/-- R118, R119: a descriptor is a command exactly when a row of the opcode map has `d & mask = match`, and at most one
row does. -/
def Obligations.DescriptorSelectsAtMostOneRow : Prop :=
  ∀ d : Descriptor,
    ((∃ i, decodeDescriptor d = .ok i) ↔ ∃ r ∈ rows, d &&& r.mask = r.mtch) ∧
    ∀ r₁ ∈ rows, ∀ r₂ ∈ rows, d &&& r₁.mask = r₁.mtch → d &&& r₂.mask = r₂.mtch → r₁.mnemonic = r₂.mnemonic

/-- R123, R210, R211: a record decodes from the head of any byte sequence that begins with its bytes, and what follows it
is left; and nothing else decodes: bytes from which a record is read begin with the encoding of that well-formed
record. -/
def Obligations.RecordDecodesAtHead : Prop :=
  (∀ (i : Instr) (bytes rest : List Byte),
    i.wellFormed = true → encode i = .record bytes → decodeRecord (bytes ++ rest) = .ok (i, rest)) ∧
  ∀ (i : Instr) (bytes rest : List Byte), decodeRecord bytes = .ok (i, rest) →
    i.wellFormed = true ∧ ∃ b, encode i = .record b ∧ bytes = b ++ rest

/-- Descriptors and records written out from the tables of `30_encoding.md` decode to the instructions they stand for,
at least one of each format N, T, F, D, U and A and of each record kind; and a descriptor of format B whose V bit is
set where RDBIT's must be 0 is refused (R113, R118, R121 (b)). -/
def Obligations.WrittenOutWordsDecode : Prop :=
  decodeDescriptor 0x0100000000000000 = .ok .init ∧
  decodeDescriptor 0x02686B0001000000 = .ok (.wrb 0x68 0x6B 1) ∧
  decodeDescriptor 0x05686B0001000000 = .ok (.wrbit 0x68 0x6B 0 1) ∧
  decodeDescriptor 0x06681B6203000000 = .ok (.wrbf 0x68 0x1B 3 2 3) ∧
  decodeDescriptor 0x120000031F000000 = .ok (.selbank 31 1 1) ∧
  decodeDescriptor 0x2081FA000A002000 = .ok (.upblk 1 1 0xFA 10 0x20) ∧
  decodeDescriptor 0x3000000000000000 = .ok .setup ∧
  decodeDescriptor 0x3100000000000000 = .ok .rdsmp ∧
  decodeDescriptor 0x3200000002000000 = .ok (.rdavg 2) ∧
  decodeDescriptor 0x04686B2001000000 = .error (.mustBeZeroBitSet 0x04) ∧
  decodeRecord [0x01, 0x00, 0x02, 0xAA, 0xBB] = .ok (.recData 0x01 0x00 [0xAA, 0xBB], []) ∧
  decodeRecord [0x00, 0x04, 0x00, 0x01] = .ok (.recSpcInten 0x00 0x04, [])

/-! ## The step, HOST, ENV and reset -/

/-- When a command runs and no move is scheduled, or `wait` stands for it, the step is `exec` of the instruction that
stands where the fetch reads; the only other thing a step does there is ENV lifting a hold that the block stands in:
under HardwareResolves (R93), or RefDev completing a STOP (R95). An idle block with nothing scheduled stays as it is
(R310), or ENV ends STP and BB in the same two cases. With `block` at the head of the agenda the block takes its turn
alone, and `wait` goes once no command runs. The agenda, `block` and `wait`, and when ENV ends STP and BB are the model's
choices (log entries 2, 3, 14). -/
def Obligations.StepRunsTheDecodedInstruction : Prop :=
  (∀ (s : State) (i : Instr), cfgLegal s.cfg = true → defaultDue s → s.seq.phase ≠ .idle → fetches s i →
    step s =
      if s.held = true ∧ (s.env.resolves = true ∨ s.env.dev.isSome = true ∧ s.bt.stp = true) then
        .next (withBusFreed s)
      else exec i s) ∧
  (∀ s : State, cfgLegal s.cfg = true → s.moves = [] → s.seq.phase = .idle →
    step s =
      if (s.bt.stp = true ∨ s.bt.bb = true) ∧ (s.env.resolves = true ∨ s.env.dev.isSome = true ∧ s.bt.stp = true) then
        .next (withBusFreed s)
      else .next s) ∧
  ∀ (s : State) (rest : List Move), agendaTurn s →
    (s.moves = .block :: rest →
      (s.seq.phase = .idle → step s = .next { s with moves := rest }) ∧
      ∀ i, s.seq.phase ≠ .idle → fetches s i → step s = exec i { s with moves := rest }) ∧
    (s.moves = .wait :: rest → s.busy = false → step s = .next { s with moves := rest })

/-- R119, R274: an accepted descriptor that decodes to no command ends at once with ILLEGAL_COMMAND, in the default turn
or in a turn that `block` gives; RESULT and BUSY change and nothing else. That this ending is a step of its own is the
model's choice (log entry 5), and so is the agenda (log entry 2). -/
def Obligations.IllegalCommandEndsAtOnce : Prop :=
  ∀ (s : State) (e : DecodeError), cfgLegal s.cfg = true → accepted s → decodeDescriptor s.cmdr = .error e →
    (defaultDue s → step s = .next (endedWith (failedWith .illegalCommand .ok) s)) ∧
    ∀ rest, s.moves = .block :: rest →
      step s = .next (endedWith (failedWith .illegalCommand .ok) { s with moves := rest })

/-- R22: a host write of CMD when BUSY = 0 latches the descriptor, sets BUSY, clears VALID and starts the command, in
one step; CMD reads back as the latch; and CMD reads zero after reset. A host write is the head of the agenda (the
model's form, log entry 2). -/
def Obligations.CommandWriteLatchesAndStarts : Prop :=
  (∀ (s : State) (d : Descriptor) (rest : List Move),
    agendaTurn s → s.moves = .writeHR 0 d :: rest → s.busy = false →
    step s = .next { s with
      moves := rest, cmdr := d, busy := true, result := { s.result with valid := false },
      seq := { s.seq with phase := .accepted } }) ∧
  (∀ s : State, hostRead s 0 = some (.word64 s.cmdr)) ∧
  ∀ (c : Cfg) (n : Nat), hostRead (State.afterReset c n) 0 = some (.word64 0)

/-- R21, R71, U11, U12: while BUSY = 1 the host's writes of CMD, PBUF and IMG and its reads of PBUF are refused moves; a
write to a read-only host register changes nothing; a read of a host register, at any time, or of a PBUF byte when
BUSY = 0 has a value and changes nothing; a read or write of a register number above 19 is no move. A refused move is
the model's form of a move that is not there (log entries 2, 13, 18). -/
def Obligations.HostWritesAreRefusedOrIgnored : Prop :=
  ∀ (s : State) (rest : List Move), agendaTurn s →
    (∀ m, s.moves = m :: rest → s.busy = true →
      ((∃ d, m = .writeHR 0 d) ∨ (∃ i v, m = .writePBUF i v) ∨ (∃ a v, m = .writeIMG a v) ∨ ∃ i, m = .readPBUF i) →
      step s = .refused .hostMoveWhileBusy) ∧
    (∀ n d, s.moves = .writeHR n d :: rest → 1 ≤ n → n ≤ 19 → step s = .next { s with moves := rest }) ∧
    (∀ n, s.moves = .readHR n :: rest → n ≤ 19 →
      (hostRead s n).isSome = true ∧ step s = .next { s with moves := rest }) ∧
    (∀ n, 19 < n → ((∃ d, s.moves = .writeHR n d :: rest) ∨ s.moves = .readHR n :: rest) →
      step s = .refused .noSuchHostRegister) ∧
    (∀ i, s.moves = .readPBUF i :: rest → s.busy = false → i < s.cfg.pbufSize →
      hostReadPbuf s i = some (s.pbufByte i) ∧ step s = .next { s with moves := rest })

/-- R71, R72: a host write of a PBUF or IMG byte when BUSY = 0 stores that byte and no other. A host write is the head
of the agenda (the model's form, log entry 2). -/
def Obligations.HostWritesStoreOneByte : Prop :=
  ∀ (s : State) (rest : List Move) (a : Nat) (v : Byte), agendaTurn s → s.busy = false →
    (s.moves = .writePBUF a v :: rest → a < s.cfg.pbufSize →
      ∃ t, step s = .next t ∧ sameImg s t ∧ ∀ b, t.pbufByte b = if b = a then v else s.pbufByte b) ∧
    (s.moves = .writeIMG a v :: rest → a < s.cfg.imgSize →
      ∃ t, step s = .next t ∧ samePbuf s t ∧ ∀ b, t.imgByte b = if b = a then v else s.imgByte b)

/-- R91: StopComplete is enabled when STP = 1 and clears STP and BB, and nothing else. Where RefDev is on the bus and the
block is idle or at its next Start, it is the next step, before any move (R95, log entry 14). A move that is not enabled
is refused (the model's form, log entries 2, 13). -/
def Obligations.StopCompleteClearsStopAndBusy : Prop :=
  (∀ (s : State) (rest : List Move), agendaTurn s → s.moves = .stopComplete :: rest →
    step s =
      if s.bt.stp = true then .next { s with moves := rest, bt := { s.bt with stp := false, bb := false } }
      else .refused .envMoveNotEnabled) ∧
  ∀ s : State, cfgLegal s.cfg = true → s.env.dev.isSome = true → s.bt.stp = true →
    (s.seq.phase = .idle ∨ s.held = true) → step s = .next { s with bt := { s.bt with stp := false, bb := false } }

/-- R92: ForeignBusy and ForeignIdle set and clear BB, only outside a transaction of the block, the first only when the
bus is free. A move that is not enabled is refused (the model's form, log entries 2, 13). -/
def Obligations.ForeignMastersMoveBusyOnly : Prop :=
  ∀ (s : State) (rest : List Move), agendaTurn s →
    (s.moves = .foreignBusy :: rest →
      step s =
        if s.bt.bb = false ∧ s.bt.stp = false ∧ s.inTransaction = false then
          .next { s with moves := rest, bt := { s.bt with bb := true } }
        else .refused .envMoveNotEnabled) ∧
    (s.moves = .foreignIdle :: rest →
      step s =
        if s.bt.bb = true ∧ s.inTransaction = false then
          .next { s with moves := rest, bt := { s.bt with bb := false } }
        else .refused .envMoveNotEnabled)

/-- R37, R310: RESET_BLOCK, at any time, gives every register the reset value that R37 states for it, if it
states one, and drops a command in flight; CFG stays. That ENV and the agenda stay is the model's choice (log entry 21). -/
def Obligations.ResetBlockRestoresResetValues : Prop :=
  ∀ (s : State) (rest : List Move), agendaTurn s → s.moves = .resetBlock :: rest →
    ∃ t, step s = .next t ∧ t.cfg = s.cfg ∧ t.env = s.env ∧ t.moves = rest ∧ holdsResetValues t

/-- R37: the state after reset, under every configuration, has the values that R37 states, in every register it states one for
and in HR1 to HR8, with no byte of PBUF and IMG written; and a step from it with no host move leaves it as it is (R310:
"after reset the block is idle and waits for a CMD write"). That an idle step answers the same state is the model's
choice (log entry 2). -/
def Obligations.ResetStateIsIdle : Prop :=
  ∀ (c : Cfg) (n : Nat),
    holdsResetValues (State.afterReset c n) ∧
    hostRead (State.afterReset c n) 1 = some (.word32 0) ∧ hostRead (State.afterReset c n) 2 = some (.word32 0) ∧
    hostRead (State.afterReset c n) 3 = some (.word32 0) ∧ hostRead (State.afterReset c n) 4 = some (.word32 0) ∧
    hostRead (State.afterReset c n) 5 = some (.word32 0) ∧ hostRead (State.afterReset c n) 6 = some (.word32 0) ∧
    hostRead (State.afterReset c n) 7 = some (.word32 0) ∧ hostRead (State.afterReset c n) 8 = some (.word32 0) ∧
    (cfgLegal c = true → step (State.afterReset c n) = .next (State.afterReset c n))

/-- The host registers (R21): STATUS shows its bits (R23); RESULT its fields, and zero while BUSY = 1 (R24); CURPOS,
REMAIN, IPOS, FIFOCNT and IDTRY show the working registers with the upper bits zero (R25); SMP_STATUS and SMP0..SMP10
the sample (R33). -/
def Obligations.StatusAndResultShowTheirBits : Prop :=
  (∀ s : State,
    (s.busy = true → resultWord s = 0) ∧
    (s.busy = false →
      (resultWord s).extractLsb' 0 8 = s.result.code.toByte ∧
      (resultWord s).extractLsb' 8 8 = s.result.cause.toByte ∧
      (resultWord s).getLsbD 16 = s.result.rbit ∧
      (resultWord s).getLsbD 17 = s.result.valid ∧
      (resultWord s).extractLsb' 18 14 = 0)) ∧
  (∀ (s : State) (n : Nat),
    (statusWord s).getLsbD n =
      match n with
      | 0 => s.busy
      | 1 => s.bt.initd
      | 2 => decide (s.ae.devstat = .connected)
      | 3 => decide (s.ae.devstat = .dmpReady)
      | 4 => s.bt.bb
      | 5 => s.bt.stp
      | 6 => s.bt.ardy
      | 7 => s.bt.nack
      | 8 => s.bt.arbl
      | 9 => s.bt.mst
      | 10 => s.bt.trx
      | 11 => s.bt.rm
      | 12 => s.bt.qen
      | 13 => s.bt.irs
      | _ => false) ∧
  ∀ s : State,
    hostRead s 1 = some (.word32 (statusWord s)) ∧ hostRead s 2 = some (.word32 (resultWord s)) ∧
    (∃ w, hostRead s 3 = some (.word32 w) ∧
      w.extractLsb' 0 8 = s.fp.curoff ∧ w.extractLsb' 8 5 = s.fp.curbank ∧ w.extractLsb' 13 19 = 0) ∧
    (∃ w, hostRead s 4 = some (.word32 w) ∧ w.toNat = s.fp.remain.toNat) ∧
    (∃ w, hostRead s 5 = some (.word32 w) ∧ w.toNat = s.fp.ipos.toNat) ∧
    (∃ w, hostRead s 6 = some (.word32 w) ∧ w.toNat = s.ae.fifocnt.toNat) ∧
    (∃ w, hostRead s 7 = some (.word32 w) ∧ w.toNat = s.ae.idtry.toNat) ∧
    (∃ w, hostRead s 8 = some (.word32 w) ∧ w.toNat = if s.smpStatus then 1 else 0) ∧
    ∀ j, j < 11 → hostRead s (9 + j) = (s.smp.fields[j]?).map .num

/-! ## Every instruction goes on, waits only at a Start, and ends -/

/-- Every instruction, in every phase of its own, has a next state: no instruction ends in a fault or a refusal. Inside a
transaction every call site runs the one procedure of R152 or R153: where that goes on at a place, the instruction goes
on at that place of its site; where that returns, TRACE, ENV, BB, STP, MST and TRX are as it leaves them, whatever the
caller does with the reply, and where it returns its Ok a STOP has been requested, the automatic one at the end of a
read. After a transmitted byte or a poll STATUS shows the answer that ENV had ready: NACK until the STOP that follows a
refused byte (R29, R145), ARDY until the STOP that follows a successful poll (R29, R149; that it is cleared in the step
of that STOP is the model's choice, log entry 5); a failed poll is recovered (R151). A hold is a step that changes
nothing (the model's choice, log entry 5). -/
def Obligations.EveryInstructionHasANextState : Prop :=
  ∀ (i : Instr) (s : State), phaseFits i s.seq.phase = true →
    ∃ t, exec i s = .next t ∧
      ∀ (here : Site → XferAt → Phase) (k : Site) (x : XferAt), here = .cmd ∨ here = .record →
        s.seq.phase = here k x →
        (xferStep s x = .hold → t = s) ∧ (∀ y u, xferStep s x = .go y u → t = u.goto (here k y)) ∧
        (∀ r u, xferStep s x = .done r u →
          t.trace = u.trace ∧ t.env = u.env ∧ sameWire u t ∧ ((∃ buf, r = .ok buf) → stopRequested s t)) ∧
        (∀ b ans rest, byteSent s x = some b → s.env.tx = ans :: rest → byteAnswered k b ans s t) ∧
        (∀ ok rest, x = .r .poll → s.env.ready = ok :: rest → polled ok s t) ∧
        (x = .w .nackStop ∨ x = .w .payloadStop ∨ x = .r .nackStop → stopRequested s t ∧ t.bt.nack = false) ∧
        (x = .r .stop1 → stopRequested s t ∧ t.bt.ardy = false) ∧
        (x = .r .timeout → recovered s t)

/-- R143: the block has no step while STP = 1 or BB = 1 at a Start, whatever the instruction; with both clear the Start
fires, with the START and the address byte in TRACE, BB set and NACK set by a NACK; where arbitration is kept MST is 1
and TRX tells the direction: 1 in write mode, 0 in read mode (R27, R144). Lost arbitration clears MST
and TRX and requests no STOP (R147); it leaves ARBL = 1, except where SETUP's identity check has an attempt left: there
the next attempt begins, whose head clears ARBL (R160, R233). That a held block answers the same state, and that the
head of the next attempt is in the same step, are the model's choices (log entry 5). -/
def Obligations.StartIsHeldUntilTheBusIsFree : Prop :=
  ∀ (i : Instr) (s : State) (k : Site) (x : XferAt),
    phaseFits i s.seq.phase = true → (s.seq.phase = .cmd k x ∨ s.seq.phase = .record k x) → x.atStart = true →
    (s.bt.stp = true ∨ s.bt.bb = true → exec i s = .next s) ∧
    (busFree s → ∀ ans rest, s.env.addr = ans :: rest →
      ∃ t, exec i s = .next t ∧
        t.trace = s.trace ++ [.start, .addr s.bt.sa (if x = .r .start2 then .read else .write) ans] ∧
        t.bt.bb = true ∧ (ans = .nack → t.bt.nack = true) ∧
        (ans ≠ .arblost → t.bt.mst = true ∧ (t.bt.trx = true ↔ x ≠ .r .start2)) ∧
        (ans = .arblost → t.bt.stp = false ∧ arbitrationLost k s t))

/-- R275, R276: at its ending step every command writes RESULT and clears BUSY, and nothing else: `fail CODE cause C`
or `succeed with RBIT`. -/
def Obligations.EndingWritesResultAndBusyOnly : Prop :=
  ∀ (i : Instr) (s : State), i.isCommand = true →
    (∀ code cause, s.seq.phase = .ending (.fail code cause) →
      exec i s = .next (endedWith (failedWith code cause) s)) ∧
    (∀ rbit, s.seq.phase = .ending (.succeed rbit) → exec i s = .next (endedWith (succeededWith rbit) s))

/-- R121 (d), R274: an accepted command with an operand that is not legal ends with ILLEGAL_OPERAND, whatever INITD and
DEVSTAT are; RESULT and BUSY change and nothing else. -/
def Obligations.IllegalOperandsAreRefused : Prop :=
  ∀ (i : Instr) (s : State), accepted s → i.isCommand = true → operandsLegal s.cfg i = false →
    exec i s = .next (endedWith (failedWith .illegalOperand .ok) s)

/-- R140, R240, R250, R274: a command with legal operands that is not ready (INITD = 0, or DEVSTAT not DMPReady for the
sample commands) ends with NOT_READY; RESULT and BUSY change and nothing else. -/
def Obligations.CommandsThatAreNotReadyAreRefused : Prop :=
  ∀ (i : Instr) (s : State), accepted s → operandsLegal s.cfg i = true →
    (checksInit i = true ∧ s.bt.initd = false ∨ readsSample i = true ∧ s.ae.devstat ≠ .dmpReady) →
    exec i s = .next (endedWith (failedWith .notReady .ok) s)

/-! ## BusTransport -/

/-- R141, R142: INIT resets the controller and initialises it, without waiting for a pending STOP, and ends with OK; its
two steps, and the whole state after them. That BusReset and BusInit share a step is the model's choice (log entry
5); that the controller is reset before it is programmed is from general knowledge (R141: PRESUMED, log entry 20). -/
def Obligations.InitResetsInitialisesAndSucceeds : Prop :=
  ∀ s : State, accepted s →
    execTimes 2 .init s = .next (endedWith (succeededWith false)
      { s with bt := busInitialised s.cfg s.bt, trace := s.trace ++ [.reset, .init] })

/-- R152, R154: WRB with a free bus and every byte acknowledged runs to OK: START, address, register, PBUF[0..CNT-1],
STOP, for every CNT up to PBUF_SIZE; the bus registers after it; PBUF and IMG are as before. -/
def Obligations.WrbSendsItsPayload : Prop :=
  ∀ (sa : BitVec 7) (reg : Byte) (cnt : BitVec 16) (s : State) (addrs txs : List Answer),
    accepted s → s.bt.initd = true → busFree s → cnt.toNat ≤ s.cfg.pbufSize →
    s.env.addr = .ack :: addrs → s.env.tx = List.replicate (cnt.toNat + 1) .ack ++ txs →
    ∃ t, execTimes (cnt.toNat + 5) (.wrb sa reg cnt) s = .next t ∧
      t.result = succeededWith false ∧ t.busy = false ∧ t.seq.phase = .idle ∧
      t.bt = { busAfter s.bt sa reg cnt with rm := true, retry := false } ∧
      t.trace = s.trace ++ writeTrace sa reg (s.pbufBytes cnt.toNat) ∧
      samePbuf s t ∧ sameImg s t

/-- R152: "exactly one automatic retry": with the address byte or the register byte not acknowledged in both attempts,
WRB makes two attempts, each closed by a STOP (the first one completed by ENV's StopComplete), sends no payload and ends
with BUS_NACK. -/
def Obligations.WrbGivesUpAfterOneRetry : Prop :=
  ∀ (sa : BitVec 7) (reg : Byte) (cnt : BitVec 16) (s : State) (addrs txs : List Answer) (n : FirstNack),
    accepted s → s.bt.initd = true → busFree s → cnt.toNat ≤ s.cfg.pbufSize →
    let gaveUp := fun (second : FirstNack) =>
      ∃ t u, execTimes n.steps (.wrb sa reg cnt) s = .next t ∧ t.bt.retry = true ∧
        execTimes second.steps (.wrb sa reg cnt) (stopComplete t) = .next u ∧
        u.result = failedWith .busNack .ok ∧ u.busy = false ∧
        u.bt = { busAfter s.bt sa reg cnt with rm := true, retry := true } ∧
        traced s (n.trace sa reg ++ second.trace sa reg) u
    (n.answers (.nack :: addrs) txs s.env → gaveUp .address) ∧
    (n.answers (.ack :: addrs) (.nack :: txs) s.env → gaveUp .register)

/-- R152: a first attempt whose address byte or register byte is not acknowledged is answered by one resend of the whole
transaction, which then completes. -/
def Obligations.WrbRetryCanSucceed : Prop :=
  ∀ (sa : BitVec 7) (reg : Byte) (cnt : BitVec 16) (s : State) (addrs txs : List Answer) (n : FirstNack),
    accepted s → s.bt.initd = true → busFree s → cnt.toNat ≤ s.cfg.pbufSize →
    n.answers (.ack :: addrs) (List.replicate (cnt.toNat + 1) .ack ++ txs) s.env →
    ∃ t u, execTimes n.steps (.wrb sa reg cnt) s = .next t ∧
      execTimes (cnt.toNat + 4) (.wrb sa reg cnt) (stopComplete t) = .next u ∧
      u.result = succeededWith false ∧ u.busy = false ∧
      traced s (n.trace sa reg ++ writeTrace sa reg (s.pbufBytes cnt.toNat)) u

/-- R152: "a NACK during payload transmission aborts immediately and reports failure — no retry", in the first attempt or
the second: payload byte `k` not acknowledged, a STOP, no later byte, BUS_NACK. -/
def Obligations.WrbPayloadNackAborts : Prop :=
  ∀ (sa : BitVec 7) (reg : Byte) (cnt : BitVec 16) (k : Nat) (s : State) (addrs txs : List Answer),
    accepted s → s.bt.initd = true → busFree s → cnt.toNat ≤ s.cfg.pbufSize → k < cnt.toNat →
    let aborted := fun (retry : Bool) (t : State) =>
      t.result = failedWith .busNack .ok ∧ t.busy = false ∧
      t.bt = { busAfter s.bt sa reg cnt with rm := true, retry := retry }
    (s.env.addr = .ack :: addrs → s.env.tx = List.replicate (k + 1) .ack ++ .nack :: txs →
      ∃ t, execTimes (k + 6) (.wrb sa reg cnt) s = .next t ∧ aborted false t ∧
        traced s (cutShortTrace sa reg (s.pbufBytes k) (s.pbufByte k) .nack ++ [.stop]) t) ∧
    ∀ n : FirstNack, n.answers (.ack :: addrs) (List.replicate (k + 1) .ack ++ .nack :: txs) s.env →
      ∃ t u, execTimes n.steps (.wrb sa reg cnt) s = .next t ∧
        execTimes (k + 5) (.wrb sa reg cnt) (stopComplete t) = .next u ∧ aborted true u ∧
        traced s (n.trace sa reg ++ cutShortTrace sa reg (s.pbufBytes k) (s.pbufByte k) .nack ++ [.stop]) u

/-- R147: arbitration lost anywhere in WRB ends it with ARB_LOST: at the address byte, the register byte or payload byte
`k` of the first attempt, and at each of them in the retry, whichever byte of the first attempt was refused. Nothing more
is sent, no STOP is requested, TRX and MST are 0, ARBL and BB stay 1. -/
def Obligations.WrbStopsOnArbitrationLoss : Prop :=
  ∀ (sa : BitVec 7) (reg : Byte) (cnt : BitVec 16) (s : State) (addrs txs : List Answer),
    accepted s → s.bt.initd = true → busFree s → cnt.toNat ≤ s.cfg.pbufSize →
    let lost := fun (retry : Bool) (t : State) =>
      t.result = failedWith .arbLost .ok ∧ t.busy = false ∧
      t.bt = { busAfter s.bt sa reg cnt with rm := true, retry := retry, mst := false, arbl := true, stp := false }
    let lostInRetry := fun (n : FirstNack) (steps : Nat) (es : List Event) =>
      ∃ t u, execTimes n.steps (.wrb sa reg cnt) s = .next t ∧
        execTimes steps (.wrb sa reg cnt) (stopComplete t) = .next u ∧ lost true u ∧ traced s (n.trace sa reg ++ es) u
    (s.env.addr = .arblost :: addrs →
      ∃ t, execTimes 3 (.wrb sa reg cnt) s = .next t ∧ lost false t ∧
        traced s [.start, .addr sa .write .arblost] t) ∧
    (s.env.addr = .ack :: addrs → s.env.tx = .arblost :: txs →
      ∃ t, execTimes 4 (.wrb sa reg cnt) s = .next t ∧ lost false t ∧
        traced s [.start, .addr sa .write .ack, .tx reg .arblost] t) ∧
    (∀ k, k < cnt.toNat → s.env.addr = .ack :: addrs → s.env.tx = List.replicate (k + 1) .ack ++ .arblost :: txs →
      ∃ t, execTimes (k + 5) (.wrb sa reg cnt) s = .next t ∧ lost false t ∧
        traced s (cutShortTrace sa reg (s.pbufBytes k) (s.pbufByte k) .arblost) t) ∧
    ∀ n : FirstNack,
      (n.answers (.arblost :: addrs) txs s.env → lostInRetry n 2 [.start, .addr sa .write .arblost]) ∧
      (n.answers (.ack :: addrs) (.arblost :: txs) s.env →
        lostInRetry n 3 [.start, .addr sa .write .ack, .tx reg .arblost]) ∧
      ∀ k, k < cnt.toNat → n.answers (.ack :: addrs) (List.replicate (k + 1) .ack ++ .arblost :: txs) s.env →
        lostInRetry n (k + 4) (cutShortTrace sa reg (s.pbufBytes k) (s.pbufByte k) .arblost)

/-- R153, R155: RDB with a free bus, acknowledged and ready, runs to OK: phase 1, the STOP that ENV completes, phase 2
with CNT bytes; PBUF[0..CNT-1] are the bytes received and no other byte of PBUF changes; BCNT has counted to 0. -/
def Obligations.RdbStoresWhatItReceives : Prop :=
  ∀ (sa : BitVec 7) (reg : Byte) (cnt : BitVec 16) (bytes : List Byte) (s : State) (addrs txs : List Answer)
    (rxs : List Byte) (rdys : List Bool),
    accepted s → s.bt.initd = true → busFree s → 1 ≤ cnt.toNat → cnt.toNat ≤ s.cfg.pbufSize →
    bytes.length = cnt.toNat → s.env.addr = .ack :: .ack :: addrs → s.env.tx = .ack :: txs →
    s.env.ready = true :: rdys → s.env.rx = bytes ++ rxs →
    ∃ t u, execTimes 5 (.rdb sa reg cnt) s = .next t ∧
      execTimes (cnt.toNat + 3) (.rdb sa reg cnt) (stopComplete t) = .next u ∧
      u.result = succeededWith false ∧ u.busy = false ∧
      u.bt = { busAfter s.bt sa reg cnt with rm := false, bcnt := 0 } ∧
      u.trace = s.trace ++ readTraceFirst sa reg ++ readTraceSecond sa bytes ∧
      (∀ a, u.pbufByte a = if a < cnt.toNat then bytes.getD a 0 else s.pbufByte a) ∧ sameImg s u

/-- R151, R153: a read whose bounded poll fails is recovered by a forced STOP, a controller reset and an
initialisation, and RDB ends with BUS_TIMEOUT; INITD is 1 again, STP and BB are 0, PBUF is as before. -/
def Obligations.RdbRecoversFromTimeout : Prop :=
  ∀ (sa : BitVec 7) (reg : Byte) (cnt : BitVec 16) (s : State) (addrs txs : List Answer) (rdys : List Bool),
    accepted s → s.bt.initd = true → busFree s → 1 ≤ cnt.toNat → cnt.toNat ≤ s.cfg.pbufSize →
    s.env.addr = .ack :: addrs → s.env.tx = .ack :: txs → s.env.ready = false :: rdys →
    ∃ t, execTimes 6 (.rdb sa reg cnt) s = .next t ∧ t.result = failedWith .busTimeout .ok ∧ t.busy = false ∧
      t.bt = { busInitialised s.cfg s.bt with sa := sa, rega := reg, cnt := cnt } ∧
      t.ae.devstat = s.ae.devstat ∧
      traced s [.start, .addr sa .write .ack, .tx reg .ack, .ready false, .stop, .reset, .init] t ∧
      samePbuf s t

/-- R153, R147: a NACK on the read path, of the address byte or the register byte of phase 1 or of the address byte of
phase 2, ends RDB with BUS_NACK after a STOP, with no retry; arbitration lost at one of those three bytes ends it with
ARB_LOST and no STOP; nothing is received and PBUF is as before (R278). -/
def Obligations.RdbDoesNotRetry : Prop :=
  ∀ (sa : BitVec 7) (reg : Byte) (cnt : BitVec 16) (s : State) (addrs txs : List Answer) (rdys : List Bool),
    accepted s → s.bt.initd = true → busFree s → 1 ≤ cnt.toNat → cnt.toNat ≤ s.cfg.pbufSize →
    (s.env.addr = .nack :: addrs →
      ∃ t, execTimes 4 (.rdb sa reg cnt) s = .next t ∧ endedByNack s t ∧
        traced s [.start, .addr sa .write .nack, .stop] t) ∧
    (s.env.addr = .ack :: addrs → s.env.tx = .nack :: txs →
      ∃ t, execTimes 5 (.rdb sa reg cnt) s = .next t ∧ endedByNack s t ∧
        traced s [.start, .addr sa .write .ack, .tx reg .nack, .stop] t) ∧
    (s.env.addr = .ack :: .nack :: addrs → s.env.tx = .ack :: txs → s.env.ready = true :: rdys →
      ∃ t u, execTimes 5 (.rdb sa reg cnt) s = .next t ∧ execTimes 3 (.rdb sa reg cnt) (stopComplete t) = .next u ∧
        endedByNack s u ∧
        traced s (readTraceFirst sa reg ++ [.start, .addr sa .read .nack, .stop]) u) ∧
    (s.env.addr = .arblost :: addrs →
      ∃ t, execTimes 3 (.rdb sa reg cnt) s = .next t ∧ endedByArbitration s t ∧
        traced s [.start, .addr sa .write .arblost] t) ∧
    (s.env.addr = .ack :: addrs → s.env.tx = .arblost :: txs →
      ∃ t, execTimes 4 (.rdb sa reg cnt) s = .next t ∧ endedByArbitration s t ∧
        traced s [.start, .addr sa .write .ack, .tx reg .arblost] t) ∧
    (s.env.addr = .ack :: .arblost :: addrs → s.env.tx = .ack :: txs → s.env.ready = true :: rdys →
      ∃ t u, execTimes 5 (.rdb sa reg cnt) s = .next t ∧ execTimes 2 (.rdb sa reg cnt) (stopComplete t) = .next u ∧
        endedByArbitration s u ∧
        traced s (readTraceFirst sa reg ++ [.start, .addr sa .read .arblost]) u)

/-- R157: RDBIT with a free bus, acknowledged and ready, keeps the byte read in TMPB and ends with OK and RBIT the bit
at the MSB-first index; a read that fails on the bus gives its code, with PBUF and TMPB as before. That it is the read
alone, where R84 speaks of a read and a write, is the model's choice after R157 (log entry 24). -/
def Obligations.RdbitReturnsTheBit : Prop :=
  ∀ (sa : BitVec 7) (reg : Byte) (bit : BitVec 3) (s : State),
    (∀ (b : Byte) (addrs txs : List Answer) (rxs : List Byte) (rdys : List Bool),
      accepted s → s.bt.initd = true → busFree s → s.env.addr = .ack :: .ack :: addrs → s.env.tx = .ack :: txs →
      s.env.ready = true :: rdys → s.env.rx = b :: rxs →
      ∃ t u, execTimes 5 (.rdbit sa reg bit) s = .next t ∧
        execTimes 4 (.rdbit sa reg bit) (stopComplete t) = .next u ∧
        u.result = succeededWith (b.getLsbD (7 - bit.toNat)) ∧ u.busy = false ∧
        u.bt = { busAfter s.bt sa reg 1 with rm := false, bcnt := 0, tmpb := b } ∧
        traced s (readTraceFirst sa reg ++ readTraceSecond sa [b]) u ∧ samePbuf s u) ∧
    ∀ (k : Site) (x : XferAt) (c : Code), commandFails (.rdbit sa reg bit) s k x c →
      ∃ t, exec (.rdbit sa reg bit) s = .next t ∧ goesToFailure c s t

/-- R158, R159, R182: WRBF, WRBIT and DWBF with a free bus, acknowledged and ready, read the byte into TMPB and write
back FieldInsert of it, and end with OK; a transaction that fails on the bus, the read or the write-back, gives its code,
with PBUF and TMPB as before and, after a failed read, nothing written back. -/
def Obligations.ReadModifyWriteCompletes : Prop :=
  ∀ (i : Instr) (sa : BitVec 7) (reg : Byte) (start width : Nat) (value : Byte) (s : State),
    rmwOperands s.cfg i = some (sa, reg, start, width, value) →
    (∀ (b : Byte) (addrs txs : List Answer) (rxs : List Byte) (rdys : List Bool),
      operandsLegal s.cfg i = true → accepted s → s.bt.initd = true → busFree s →
      s.env.addr = .ack :: .ack :: .ack :: addrs → s.env.tx = .ack :: .ack :: .ack :: txs →
      s.env.ready = true :: rdys → s.env.rx = b :: rxs →
      ∃ t u v, execTimes 5 i s = .next t ∧ execTimes 3 i (stopComplete t) = .next u ∧
        execTimes 5 i (stopComplete u) = .next v ∧
        v.result = succeededWith false ∧ v.busy = false ∧
        v.bt = { busAfter s.bt sa reg 1 with rm := true, bcnt := 0, retry := false, tmpb := b } ∧
        traced s (readTraceFirst sa reg ++ readTraceSecond sa [b] ++
          writeTrace sa reg [fieldInsert b start width value]) v ∧
        samePbuf s v) ∧
    ∀ (k : Site) (x : XferAt) (c : Code), commandFails i s k x c → ∃ t, exec i s = .next t ∧ goesToFailure c s t

/-- R156 (and DS §8, first property): FieldInsert keeps the bits outside the field and puts the low `width` bits of
the value into it; FieldBit is the bit at the MSB-first index. -/
def Obligations.FieldInsertReplacesTheFieldOnly : Prop :=
  ∀ (old value : Byte) (start width : Nat), 1 ≤ width → start + width ≤ 8 →
    (∀ n, n < 8 →
      (fieldInsert old start width value).getLsbD n =
        if 8 - start - width ≤ n ∧ n < 8 - start then value.getLsbD (n - (8 - start - width)) else old.getLsbD n) ∧
    (∀ bit, bit < 8 → fieldBit old bit = old.getLsbD (7 - bit))

/-! ## DeviceRegisterIO -/

/-- R181, R183, R184: DWB, SELBANK and SETADDR with a free bus and every byte acknowledged write their one byte to their
register at the device address and end with OK; a first attempt that is refused is followed by the one retry (R152), and
a write that fails on the bus gives its code. The layout of SELBANK's byte is from general knowledge (R125: PRESUMED, log
entry 20). -/
def Obligations.DeviceWritesComplete : Prop :=
  ∀ (i : Instr) (reg v : Byte) (s : State), devWriteOperands s.cfg i = some (reg, v) →
    (∀ addrs txs : List Answer, accepted s → s.bt.initd = true → busFree s →
      s.env.addr = .ack :: addrs → s.env.tx = .ack :: .ack :: txs →
      ∃ t, execTimes 6 i s = .next t ∧ t.result = succeededWith false ∧ t.busy = false ∧
        t.bt = { busAfter s.bt s.cfg.dev.devaddr reg 1 with rm := true, retry := false } ∧
        traced s (writeTrace s.cfg.dev.devaddr reg [v]) t ∧ t.fp = s.fp) ∧
    (s.seq.phase = .cmd .devWrite (.w .nackStop) → s.bt.retry = false →
      ∃ t, exec i s = .next t ∧ t.seq.phase = .cmd .devWrite (.w .start) ∧ t.seq.txbuf = s.seq.txbuf ∧
        t.bt = { s.bt with
          retry := true, rm := true, trx := false, stp := true, nack := false, arbl := false, ardy := false } ∧
        traced s [.stop] t) ∧
    ∀ (k : Site) (x : XferAt) (c : Code), commandFails i s k x c → ∃ t, exec i s = .next t ∧ goesToFailure c s t

/-! ## FirmwareProgrammer -/

/-- R125: the bank-select byte is the bank in bits 4:0, the user-bank flag in bit 5, the prefetch flag in bit 6, and
bit 7 zero (a layout that R125 takes from general knowledge: PRESUMED, log entry 20). R201: the chunk length is the
minimum of the chunk size, the bytes remaining and the distance to the bank end; it is at least 1 and a chunk never
crosses a bank boundary. -/
def Obligations.BankByteAndChunkLength : Prop :=
  (∀ (bank : BitVec 5) (pf ub : BitVec 1),
    (bankByte bank pf ub).extractLsb' 0 5 = bank ∧ (bankByte bank pf ub).extractLsb' 5 1 = ub ∧
    (bankByte bank pf ub).extractLsb' 6 1 = pf ∧ (bankByte bank pf ub).getLsbD 7 = false) ∧
  ∀ chunk remain off : Nat, 1 ≤ chunk → 1 ≤ remain → off ≤ 255 →
    chunkLen chunk remain off = min chunk (min remain (256 - off)) ∧
    1 ≤ chunkLen chunk remain off ∧ off + chunkLen chunk remain off ≤ 256

/-- R202, R203: UPBLK with legal extents loads the FirmwareProgrammer registers; with SIZE = 0 it goes to its OK with no
bus event, and else the bank select of its first chunk is next. The layout of its byte is from general knowledge (R125:
PRESUMED, log entry 20). -/
def Obligations.UpblkEntersItsFirstChunk : Prop :=
  ∀ (v : BitVec 1) (bank : BitVec 5) (offs : Byte) (size src : BitVec 16) (s : State),
    accepted s → s.bt.initd = true → operandsLegal s.cfg (.upblk v bank offs size src) = true →
    ∃ t, exec (.upblk v bank offs size src) s = .next t ∧ t.trace = s.trace ∧
      (t.fp.curbank = bank ∧ t.fp.curoff = offs ∧ t.fp.remain = size ∧ t.fp.srcptr.toNat = src.toNat ∧
        t.fp.verify = (v == 1) ∧ t.fp.ipos = s.fp.ipos ∧ t.fp.iend = s.fp.iend) ∧
      (size = 0 → t.seq.phase = .ending (.succeed false)) ∧
      (size ≠ 0 → 1 ≤ s.cfg.chunk → s.cfg.chunk ≤ 256 →
        t.fp.chunklen.toNat = min s.cfg.chunk (min size.toNat (256 - offs.toNat)) ∧
        beginsDevWrite .cmd .upSelect s.cfg.dev.raBankSel [bankByte bank 0 0] s t)

/-- R202, R204: one chunk of a block upload, whether UPBLK or a data record runs it. The bank select is followed by the
start address and that by the chunk's bytes of IMG; with verify the same bank and offset are selected again and the same
length is read back. When the chunk has been written without verify, or has been read back equal to IMG, SRCPTR and
REMAIN advance by its length, VERIFY stays, and VBUF holds what was read back. With bytes remaining, the next chunk's bank select carries the bank of the linear address
that follows (the bank steps exactly when the offset wraps); with none the bank does not step, and UPBLK goes to its OK,
the record to the record loop with IPOS past it (R208). The layout of the bank byte is from general knowledge (R125:
PRESUMED, log entry 20). -/
def Obligations.UpblkAdvancesChunkByChunk : Prop :=
  ∀ (i : Instr) (here : Site → XferAt → Phase) (s : State),
    (((∃ v b o n p, i = .upblk v b o n p) ∧ here = .cmd) ∨ ((∃ b o d, i = .recData b o d) ∧ here = .record)) →
    chunkInv s → cfgLegal s.cfg = true →
    (∀ k k' : Site, ∀ reg : Byte, ∀ data : List Byte, s.seq.phase = here k (.w .data) → s.seq.txbuf = [] →
      (k = .upSelect ∧ k' = .upAddr ∧ reg = s.cfg.dev.raMemStartAddr ∧ data = [s.fp.curoff] ∨
        k = .upAddr ∧ k' = .upData ∧ reg = s.cfg.dev.raMemRW ∧
          data = s.imgBytes s.fp.srcptr.toNat s.fp.chunklen.toNat ∨
        k = .upData ∧ s.fp.verify = true ∧ k' = .upVSelect ∧ reg = s.cfg.dev.raBankSel ∧
          data = [bankByte s.fp.curbank 0 0] ∨
        k = .upVSelect ∧ k' = .upVAddr ∧ reg = s.cfg.dev.raMemStartAddr ∧ data = [s.fp.curoff]) →
      ∃ t, exec i s = .next t ∧ stopRequested s t ∧ t.fp = s.fp ∧ beginsDevWrite here k' reg data s t) ∧
    (s.seq.phase = here .upVAddr (.w .data) → s.seq.txbuf = [] →
      ∃ t, exec i s = .next t ∧ stopRequested s t ∧ t.fp = s.fp ∧
        beginsDevRead here .upVRead s.cfg.dev.raMemRW s.fp.chunklen.toNat s t) ∧
    ((s.seq.phase = here .upData (.w .data) ∧ s.seq.txbuf = [] ∧ s.fp.verify = false ∨
        s.seq.phase = here .upVRead (.r .stop2) ∧ s.seq.rbuf = s.imgBytes s.fp.srcptr.toNat s.fp.chunklen.toNat) →
      ∃ t, exec i s = .next t ∧ stopRequested s t ∧
        t.fp.srcptr.toNat = s.fp.srcptr.toNat + s.fp.chunklen.toNat ∧
        t.fp.remain.toNat + s.fp.chunklen.toNat = s.fp.remain.toNat ∧
        t.fp.curoff.toNat = (s.fp.curoff.toNat + s.fp.chunklen.toNat) % 256 ∧
        t.fp.verify = s.fp.verify ∧
        (s.seq.phase = here .upData (.w .data) → t.fp.vbuf = s.fp.vbuf) ∧
        (s.seq.phase = here .upVRead (.r .stop2) →
          t.fp.vbuf = s.seq.rbuf ++ s.fp.vbuf.drop s.seq.rbuf.length) ∧
        (t.fp.remain = 0 → t.fp.curbank = s.fp.curbank ∧
          (here = .cmd → t.seq.phase = .ending (.succeed false) ∧ t.fp.ipos = s.fp.ipos) ∧
          (∀ b o d, i = .recData b o d →
            t.seq.phase = .image ∧ t.fp.ipos = s.fp.ipos + BitVec.ofNat 17 (3 + d.length))) ∧
        (t.fp.remain ≠ 0 → t.fp.ipos = s.fp.ipos ∧
          linearAddr t.fp.curbank.toNat t.fp.curoff.toNat =
            linearAddr s.fp.curbank.toNat s.fp.curoff.toNat + s.fp.chunklen.toNat ∧
          t.fp.chunklen.toNat = min s.cfg.chunk (min t.fp.remain.toNat (256 - t.fp.curoff.toNat)) ∧
          beginsDevWrite here .upSelect s.cfg.dev.raBankSel [bankByte t.fp.curbank 0 0] s t))

/-- R202, R203, R204: a whole UPBLK without verify, from its acceptance, under a free bus, the premise HardwareResolves
(R93) and enough acknowledges, ends with OK; its trace is, chunk by chunk, one bank select, one start address and
one data write of the bytes of IMG; REMAIN is 0 and SRCPTR is past the block. How ENV lifts a hold is the model's
choice (log entry 3); the layout of the bank byte is from general knowledge (R125: PRESUMED, log entry 20). -/
def Obligations.UpblkUploadsTheWholeBlock : Prop :=
  ∀ (bank : BitVec 5) (offs : Byte) (size src : BitVec 16) (s : State),
    cfgLegal s.cfg = true → s.moves = [] → s.env.resolves = true → accepted s → s.bt.initd = true → busFree s →
    decodeDescriptor s.cmdr = .ok (.upblk 0 bank offs size src) →
    operandsLegal s.cfg (.upblk 0 bank offs size src) = true →
    (∀ a ∈ s.env.addr, a = .ack) → 3 * size.toNat ≤ s.env.addr.length →
    (∀ a ∈ s.env.tx, a = .ack) → 6 * size.toNat ≤ s.env.tx.length →
    ∃ n t, Host.Core.run core n s = .next t ∧ t.busy = false ∧ t.result = succeededWith false ∧
      t.fp.remain = 0 ∧ t.fp.srcptr.toNat = src.toNat + size.toNat ∧
      t.trace = s.trace ++
        uploadTrace s.cfg size.toNat (linearAddr bank.toNat offs.toNat) (s.imgBytes src.toNat size.toNat)

/-- R202, R204 (e), R206, R208: when the read-back of a chunk is complete it is compared with IMG: any difference ends
the upload with VERIFY_MISMATCH, the registers of the failing chunk kept and no later chunk selected. UPBLK goes to
FW_UPLOAD_FAILED with that cause; in a data record `UploadImage` returns it, IPOS kept at the record, and UPIMG goes to
FW_UPLOAD_FAILED, SETUP to DMP_INIT_FAILED, with that cause. A transaction of a chunk that fails on the bus ends the
upload in the same way, with its own code. -/
def Obligations.UpblkVerifyMismatchFails : Prop :=
  ∀ (i : Instr) (here : Site → XferAt → Phase) (k : Site) (x : XferAt) (c : Code) (s : State),
    (((∃ v b o n p, i = .upblk v b o n p) ∧ here = .cmd) ∨ ((∃ b o d, i = .recData b o d) ∧ here = .record)) →
    s.seq.phase = here k x →
    let failed := fun (t : State) =>
      (here = .cmd → t.seq.phase = .ending (.fail .fwUploadFailed c)) ∧
      ((∃ b o d, i = .recData b o d) → t.seq.phase = .imageDone (some c) ∧
        (∀ v len src, ∃ u, exec (.upimg v len src) t = .next u ∧ u.seq.phase = .ending (.fail .fwUploadFailed c) ∧
          u.fp = t.fp) ∧
        ∃ u, exec .setup t = .next u ∧ u.seq.phase = .ending (.fail .dmpInitFailed c) ∧ u.fp = t.fp)
    (k = .upVRead → x = .r .stop2 → s.seq.rbuf ≠ s.imgBytes s.fp.srcptr.toNat s.fp.chunklen.toNat →
      c = .verifyMismatch →
      ∃ t, exec i s = .next t ∧ failed t ∧ stopRequested s t ∧
        t.fp = { s.fp with vbuf := s.seq.rbuf ++ s.fp.vbuf.drop s.seq.rbuf.length }) ∧
    (k.ofUpload = true → siteMatches k x = true → xferFails s x c → ∃ t, exec i s = .next t ∧ failed t ∧ t.fp = s.fp)

/-- R206, R207, R210, R211: UPIMG with a legal extent sets IPOS and IEND and enters the record loop with no bus event. At
the head of the loop, in UPIMG or SETUP, the image returns Ok at its end; IMAGE_MALFORMED where the bytes left are fewer
than the header, than the opcode of a special record or than the data of a data record; BAD_SPECIAL_OPCODE where a
special record's opcode is not 0x01; no bus event, IPOS kept. The return value ends UPIMG with OK or FW_UPLOAD_FAILED
with that cause. -/
def Obligations.UpimgEntersAndLeavesItsImage : Prop :=
  (∀ (v : BitVec 1) (len src : BitVec 16) (s : State),
    (accepted s → s.bt.initd = true → src.toNat + len.toNat ≤ s.cfg.imgSize →
      ∃ t, exec (.upimg v len src) s = .next t ∧ t.seq.phase = .image ∧ t.fp.ipos.toNat = src.toNat ∧
        t.fp.iend.toNat = src.toNat + len.toNat ∧ t.seq.imgVerify = (v == 1) ∧ t.trace = s.trace) ∧
    (s.seq.phase = .imageDone none → exec (.upimg v len src) s = .next (s.goto (.ending (.succeed false)))) ∧
    ∀ c, s.seq.phase = .imageDone (some c) →
      exec (.upimg v len src) s = .next (s.goto (.ending (.fail .fwUploadFailed c)))) ∧
  ∀ (i : Instr) (s : State), runsImage i = true → s.seq.phase = .image →
    let left := s.fp.iend.toNat - s.fp.ipos.toNat
    let len := s.imgByte (s.fp.ipos.toNat + 2)
    let opcode := s.imgByte (s.fp.ipos.toNat + 3)
    (left = 0 → exec i s = .next (s.goto (.imageDone none))) ∧
    (1 ≤ left → left < 3 ∨ len = 0 ∧ left < 4 ∨ len ≠ 0 ∧ left < 3 + len.toNat →
      exec i s = .next (s.goto (.imageDone (some .imageMalformed)))) ∧
    (4 ≤ left → len = 0 → opcode ≠ 0x01 → exec i s = .next (s.goto (.imageDone (some .badSpecialOpcode)))) ∧
    (1 ≤ left → ∀ e, fetchRecord s = .error e →
      exec i s = .next (s.goto (.imageDone (some
        (if ∃ op, e = .badSpecialOpcode op then Code.badSpecialOpcode else Code.imageMalformed)))))

/-- R201, R202, R206, R208: REC_DATA at the head of the record loop enters `UploadBlock(IPOS + 3, L, bank, offset, verify)`
with no bus event, its first chunk's length computed and the bank select of that chunk next; or it makes `UploadImage`
return ILLEGAL_OPERAND with no bus event when the bank byte is above 31 or the block would pass the end of bank 31; when
its last chunk has been written without verify, IPOS advances by 3 + L and the record loop goes on. The layout of the
bank byte is from general knowledge (R125: PRESUMED, log entry 20). -/
def Obligations.RecDataUploadsItsBlock : Prop :=
  ∀ (bank offs : Byte) (data : List Byte) (s : State),
    (s.seq.phase = .image → 1 ≤ data.length → data.length ≤ 255 →
      ((31 < bank.toNat ∨ 8192 < bank.toNat * 256 + offs.toNat + data.length) →
        exec (.recData bank offs data) s = .next (s.goto (.imageDone (some .illegalOperand)))) ∧
      (bank.toNat ≤ 31 → bank.toNat * 256 + offs.toNat + data.length ≤ 8192 →
        ∃ t, exec (.recData bank offs data) s = .next t ∧
          t.fp.srcptr = s.fp.ipos + 3 ∧ t.fp.remain.toNat = data.length ∧ t.fp.curbank.toNat = bank.toNat ∧
          t.fp.curoff = offs ∧ t.fp.verify = s.seq.imgVerify ∧ t.fp.ipos = s.fp.ipos ∧ t.trace = s.trace ∧
          beginsDevWrite .record .upSelect s.cfg.dev.raBankSel [bankByte (bank.setWidth 5) 0 0] s t ∧
          (1 ≤ s.cfg.chunk → s.cfg.chunk ≤ 256 →
            t.fp.chunklen.toNat = min s.cfg.chunk (min data.length (256 - offs.toNat))))) ∧
    (s.seq.phase = .record .upData (.w .data) → s.seq.txbuf = [] → s.fp.verify = false →
      s.fp.chunklen.toNat = s.fp.remain.toNat →
      ∃ t, exec (.recData bank offs data) s = .next t ∧ t.seq.phase = .image ∧ t.fp.remain = 0 ∧
        t.fp.ipos = s.fp.ipos + BitVec.ofNat 17 (3 + data.length) ∧ stopRequested s t)

/-- R209: REC_SPC_INTEN with a free bus and every byte acknowledged is one write of INT_ENABLE_VALUE to RA_INT_ENABLE,
after which IPOS has advanced by 4 and the record loop goes on; the other FirmwareProgrammer registers are as before. A
write that fails on the bus makes `UploadImage` return its code (R206), IPOS kept. -/
def Obligations.RecSpcIntenEnablesInterrupts : Prop :=
  ∀ (bank offs : Byte) (s : State),
    (∀ addrs txs : List Answer,
      s.seq.phase = .image → busFree s → s.env.addr = .ack :: addrs → s.env.tx = .ack :: .ack :: txs →
      ∃ t, execTimes 5 (.recSpcInten bank offs) s = .next t ∧ t.seq.phase = .image ∧
        t.fp = { s.fp with ipos := s.fp.ipos + 4 } ∧
        traced s (writeTrace s.cfg.dev.devaddr s.cfg.dev.raIntEnable [s.cfg.dev.intEnableValue]) t) ∧
    ∀ (a : WriteAt) (c : Code), s.seq.phase = .record .intEnable (.w a) → xferFails s (.w a) c →
      ∃ t, exec (.recSpcInten bank offs) s = .next t ∧ t.seq.phase = .imageDone (some c) ∧ t.fp = s.fp

/-! ## AcquisitionEngine -/

/-- R231 to R233: SETUP resets and initialises the controller (R141, R142) without waiting for a pending STOP, and begins
the identity check; every attempt is one read of
RA_WHO_AM_I at the device address, its STOP requested where it has received its byte. A matching byte gives Connected and
the image upload; a wrong byte, or a read that fails on the bus, counts an attempt, and the next one begins; the
ID_RETRY_MAX-th gives Disconnected and DEVICE_NOT_RESPONDING, with the read's code as its cause or none after a wrong
byte (R272); the upload's return value gives DMPReady and OK, or DMP_INIT_FAILED with its cause and DEVSTAT as it was
(in a step of its own, the model's choice, log entry 5). -/
def Obligations.SetupMovesDeviceStatus : Prop :=
  ∀ s : State,
    (accepted s →
      ∃ t, exec .setup s = .next t ∧ t.trace = s.trace ++ [.reset, .init] ∧ t.ae = { s.ae with idtry := 0 } ∧
        t.bt = { busInitialised s.cfg s.bt with
          sa := s.cfg.dev.devaddr, rega := s.cfg.dev.raWhoAmI, cnt := 1, bcnt := 1 } ∧
        beginsDevRead .cmd .identity s.cfg.dev.raWhoAmI 1 s t) ∧
    (∀ b, s.seq.phase = .cmd .identity (.r .stop2) → s.seq.rbuf = [b] → b = s.cfg.idExpected →
      ∃ t, exec .setup s = .next t ∧ stopRequested s t ∧ t.ae = { s.ae with devstat := .connected } ∧ t.seq.phase = .image ∧
        t.fp.ipos.toNat = s.cfg.dmpImgBase.toNat ∧
        t.fp.iend.toNat = s.cfg.dmpImgBase.toNat + s.cfg.dmpImgLen.toNat ∧ t.seq.imgVerify = s.cfg.setupVerify) ∧
    (∀ a cause, s.seq.phase = .cmd .identity (.r a) → s.cfg.idRetryMax ≤ 65535 →
      (xferFails s (.r a) cause ∨
        a = .stop2 ∧ cause = .ok ∧ ∃ b, s.seq.rbuf = [b] ∧ b ≠ s.cfg.idExpected) →
      (s.ae.idtry.toNat + 1 < s.cfg.idRetryMax →
        ∃ t, exec .setup s = .next t ∧ t.ae.idtry.toNat = s.ae.idtry.toNat + 1 ∧
          t.ae = { s.ae with idtry := s.ae.idtry + 1 } ∧ (a = .stop2 → stopRequested s t) ∧
          beginsDevRead .cmd .identity s.cfg.dev.raWhoAmI 1 s t) ∧
      (s.ae.idtry.toNat + 1 = s.cfg.idRetryMax →
        ∃ t, exec .setup s = .next t ∧ t.ae.idtry.toNat = s.ae.idtry.toNat + 1 ∧
          t.ae = { s.ae with idtry := s.ae.idtry + 1, devstat := .disconnected } ∧
          (a = .stop2 → stopRequested s t) ∧ t.seq.phase = .ending (.fail .deviceNotResponding cause))) ∧
    (s.seq.phase = .imageDone none →
      ∃ t, exec .setup s = .next t ∧ t.ae = { s.ae with devstat := .dmpReady } ∧ t.seq.phase = .ending (.succeed false)) ∧
    ∀ c, s.seq.phase = .imageDone (some c) →
      ∃ t, exec .setup s = .next t ∧ t.ae = s.ae ∧ t.seq.phase = .ending (.fail .dmpInitFailed c)

/-- R180, R241, R242: both sample commands begin by reading the FIFO count; a count below 42 is read again, with no
ceiling; from 42 on the interrupt status is read; on the overflow flag or the threshold the FIFO reset begins (a read of
RA_USER_CTRL) and no packet is read, and else the one packet read of 42 bytes begins. Every read is at the device address,
and its STOP is requested where it has received its bytes; FIFOCNT and INTSTAT take what was read, and the other
registers of the AcquisitionEngine and the sample are as before. -/
def Obligations.FifoWaitAndOverflow : Prop :=
  ∀ (i : Instr) (s : State), readsSample i = true →
    (accepted s → operandsLegal s.cfg i = true → s.ae.devstat = .dmpReady →
      ∃ t, exec i s = .next t ∧ t.trace = s.trace ∧ sameSample s t ∧ (i = .rdsmp → t.ae = s.ae) ∧
        beginsDevRead .cmd .fifoCount s.cfg.dev.raFifoCountH 2 s t) ∧
    (∀ h l, s.seq.phase = .cmd .fifoCount (.r .stop2) → s.seq.rbuf = [h, l] →
      ∃ t, exec i s = .next t ∧ stopRequested s t ∧ sameSample s t ∧ t.ae = { s.ae with fifocnt := h ++ l } ∧
        (h.toNat * 256 + l.toNat < 42 → beginsDevRead .cmd .fifoCount s.cfg.dev.raFifoCountH 2 s t) ∧
        (42 ≤ h.toNat * 256 + l.toNat → beginsDevRead .cmd .intStatus s.cfg.dev.raIntStatus 1 s t)) ∧
    (∀ b, s.seq.phase = .cmd .intStatus (.r .stop2) → s.seq.rbuf = [b] →
      ∃ t, exec i s = .next t ∧ stopRequested s t ∧ sameSample s t ∧ t.ae = { s.ae with intstat := b } ∧
        (b &&& s.cfg.dev.fifoOflowMask ≠ 0 ∨ s.cfg.fifoOvfThreshold ≤ s.ae.fifocnt.toNat →
          beginsDevRead .cmd .ovfRead s.cfg.dev.raUserCtrl 1 s t) ∧
        (b &&& s.cfg.dev.fifoOflowMask = 0 → s.ae.fifocnt.toNat < s.cfg.fifoOvfThreshold →
          beginsDevRead .cmd .packet s.cfg.dev.raFifoRW 42 s t))

/-- R242: the FIFO reset writes back the byte read with the one reset bit set, at the device address, and after it the wait
starts again; its read and its write are each ended by their STOP. The registers of the AcquisitionEngine and the sample
are as before. -/
def Obligations.OverflowResetsTheFifoOnce : Prop :=
  ∀ (i : Instr) (s : State), readsSample i = true →
    (∀ b, s.seq.phase = .cmd .ovfRead (.r .stop2) → s.seq.rbuf = [b] →
      ∃ t, exec i s = .next t ∧ stopRequested s t ∧ sameSample s t ∧ t.ae = s.ae ∧ t.bt.tmpb = b ∧
        beginsDevWrite .cmd .ovfWrite s.cfg.dev.raUserCtrl
          [b ||| BitVec.ofNat 8 (2 ^ (7 - s.cfg.dev.fifoResetStart.toNat))] s t) ∧
    (s.seq.phase = .cmd .ovfWrite (.w .data) → s.seq.txbuf = [] →
      ∃ t, exec i s = .next t ∧ stopRequested s t ∧ sameSample s t ∧ t.ae = s.ae ∧
        beginsDevRead .cmd .fifoCount s.cfg.dev.raFifoCountH 2 s t)

/-- R243: the STOP of the packet read is requested, the packet is kept in PKT, its ten fields are the big-endian pairs at
CFG.PKT_OFF, and the temperature read at the device address begins (R245); the other registers of the
AcquisitionEngine and the sample are as before. The width of the fields and their byte order
are from general knowledge (R243: PRESUMED, log entry 20). -/
def Obligations.PacketFieldsAreExtracted : Prop :=
  ∀ (i : Instr) (s : State), readsSample i = true → s.seq.phase = .cmd .packet (.r .stop2) →
    s.seq.rbuf.length = 42 → pktOffLegal s.cfg.pktOff = true →
    ∃ t, exec i s = .next t ∧ stopRequested s t ∧ sameSample s t ∧
      t.ae = { s.ae with pkt := s.seq.rbuf, raw := t.ae.raw } ∧
      (let f := fun k => (s.seq.rbuf.getD k 0) ++ (s.seq.rbuf.getD (k + 1) 0)
       let o := s.cfg.pktOff
       t.ae.raw = ⟨f o.qw, f o.qx, f o.qy, f o.qz, f o.ax, f o.ay, f o.az, f o.gx, f o.gy, f o.gz⟩) ∧
      beginsDevRead .cmd .temp s.cfg.dev.raTempH 2 s t

/-- R240, R244 to R246: RDSMP's last step, the STOP of its temperature read, commits the sample: in every lawful
instantiation of CFG.NUM and CFG.OM the eleven registers are the values of the formulas, SMP_STATUS is 1, and the command
goes to its OK. The signed raw temperature and the Fahrenheit formula are from general knowledge (R245: PRESUMED, log
entry 20). -/
def Obligations.RdsmpCommitsThePhysicalSample : Prop :=
  ∀ (s : State) (h l : Byte), s.seq.phase = .cmd .temp (.r .stop2) → s.seq.rbuf = [h, l] →
    ∃ t, exec .rdsmp s = .next t ∧ stopRequested s t ∧ t.smpStatus = true ∧ t.seq.phase = .ending (.succeed false) ∧
      t.ae = { s.ae with rawt := h ++ l, stg := t.smp } ∧
      ∀ (α : Type) (m : NumModel α), m.Lawful → holdsPhysical m s.cfg s.ae.raw (h ++ l) t.smp

/-- R250: RDAVG starts with AVGN its operand, AVGI 0 and every sum 0, and the first FIFO wait. After a sample, whose
staged fields are the values of the formulas (R244 to R246), it adds them to the sums; with samples left it starts the
next FIFO wait, and after the last it commits every sum divided by AVGN with SMP_STATUS 1 and goes to its OK. The signed
raw temperature and the Fahrenheit formula are from general knowledge (R245: PRESUMED, log entry 20). -/
def Obligations.RdavgSumsAndDivides : Prop :=
  ∀ (n : BitVec 16) (s : State),
    (accepted s → n ≠ 0 → s.ae.devstat = .dmpReady →
      ∃ t, exec (.rdavg n) s = .next t ∧ sameSample s t ∧
        t.ae = { s.ae with avgn := n, avgi := 0, acc := Sample.const (.ofInt 0) } ∧
        t.trace = s.trace ∧ beginsDevRead .cmd .fifoCount s.cfg.dev.raFifoCountH 2 s t) ∧
    ∀ h l : Byte, s.seq.phase = .cmd .temp (.r .stop2) → s.seq.rbuf = [h, l] →
      s.ae.avgi.toNat + 1 ≤ s.ae.avgn.toNat →
      ∃ t, exec (.rdavg n) s = .next t ∧ stopRequested s t ∧
        t.ae.avgi.toNat = s.ae.avgi.toNat + 1 ∧
        t.ae = { s.ae with rawt := h ++ l, stg := t.ae.stg, avgi := t.ae.avgi, acc := t.ae.acc } ∧
        (∀ (α : Type) (m : NumModel α), m.Lawful → holdsPhysical m s.cfg s.ae.raw (h ++ l) t.ae.stg ∧
          t.ae.acc.fields.map (numEval m) =
            List.zipWith m.add (s.ae.acc.fields.map (numEval m)) (t.ae.stg.fields.map (numEval m))) ∧
        (s.ae.avgi.toNat + 1 < s.ae.avgn.toNat →
          beginsDevRead .cmd .fifoCount s.cfg.dev.raFifoCountH 2 s t ∧ sameSample s t) ∧
        (s.ae.avgi.toNat + 1 = s.ae.avgn.toNat →
          t.seq.phase = .ending (.succeed false) ∧ t.smpStatus = true ∧
          ∀ (α : Type) (m : NumModel α), m.Lawful →
            t.smp.fields.map (numEval m) =
              t.ae.acc.fields.map (fun a => m.div (numEval m a) (m.ofInt s.ae.avgn.toNat)))

/-- R250 (DS §8): RDAVG 1 leaves the same sample as RDSMP: from the same state, with the sums at zero and one sample to
take, their last steps commit equal SMP registers and SMP_STATUS. -/
def Obligations.AverageOfOneIsTheSample : Prop :=
  ∀ (s : State), s.seq.phase = .cmd .temp (.r .stop2) → s.ae.avgn = 1 → s.ae.avgi = 0 → s.ae.acc = accZero →
    ∃ t u, exec (.rdavg 1) s = .next t ∧ exec .rdsmp s = .next u ∧
      t.smp = u.smp ∧ t.smpStatus = u.smpStatus ∧ t.seq.phase = u.seq.phase ∧ t.trace = u.trace

/-- R33, R240, R250: a transaction of a sample read that fails on the bus, with a timeout, a NACK or lost arbitration,
gives SMP_STATUS 0 and leaves SMP0..SMP10 and the AcquisitionEngine's other registers as they were, and the command goes
to its failure with that code; after a timeout the controller is initialised again (R151). -/
def Obligations.FailedSampleKeepsTheOldOne : Prop :=
  ∀ (i : Instr) (k : Site) (x : XferAt) (c : Code) (s : State),
    readsSample i = true → k.ofSample = true → siteMatches k x = true → s.seq.phase = .cmd k x → xferFails s x c →
    ∃ t, exec i s = .next t ∧ t.smpStatus = false ∧ t.smp = s.smp ∧ t.seq.phase = .ending (.fail c .ok) ∧
      t.ae = s.ae ∧ (x = .r .timeout → t.bt.initd = true)

/-! ## Frames -/

/-- What no instruction writes: IMG (R72, R86), CFG (R36), the latch and the moves to come; and TRACE only grows. -/
def Obligations.NoInstructionWritesImg : Prop :=
  ∀ (i : Instr) (s t : State), exec i s = .next t → sameImg s t ∧ sameFixed s t ∧ traceGrows s t

/-- R38: which instruction writes which state. DEVSTAT and IDTRY: SETUP alone; FIFOCNT, INTSTAT, PKT, the raw fields,
STG, and SMP_STATUS and SMP0..SMP10: RDSMP and RDAVG alone, and the sample only at the end of a temperature read, but for
SMP_STATUS at a failure (R33); AVGN, AVGI, ACC: RDAVG alone, at its start and at that end; PBUF: RDB alone; the
FirmwareProgrammer registers: UPBLK and the data records, and of them IPOS and IEND: UPIMG, SETUP and the records. The
verify argument of the running image changes only where a step enters the record loop from outside (R206). -/
def Obligations.OnlyItsOwnersWriteState : Prop :=
  ∀ (i : Instr) (s t : State), exec i s = .next t →
    (i ≠ .setup → t.ae.devstat = s.ae.devstat ∧ t.ae.idtry = s.ae.idtry) ∧
    (readsSample i = false → sameSample s t ∧ t.ae.fifocnt = s.ae.fifocnt ∧ t.ae.intstat = s.ae.intstat ∧
      t.ae.pkt = s.ae.pkt ∧ t.ae.raw = s.ae.raw ∧ t.ae.rawt = s.ae.rawt ∧ t.ae.stg = s.ae.stg) ∧
    (phaseFits i s.seq.phase = true → s.seq.phase ≠ .cmd .temp (.r .stop2) →
      t.smp = s.smp ∧ ((∀ c, t.seq.phase ≠ .ending (.fail c .ok)) → t.smpStatus = s.smpStatus) ∧
      (s.seq.phase ≠ .accepted → sameAverages s t)) ∧
    ((∀ n, i ≠ .rdavg n) → sameAverages s t) ∧
    (t.seq.phase ≠ .image ∨ s.seq.phase.inImage = true → t.seq.imgVerify = s.seq.imgVerify) ∧
    ((∀ sa reg cnt, i ≠ .rdb sa reg cnt) → samePbuf s t) ∧
    (runsImage i = false → i.isCommand = true → t.fp.ipos = s.fp.ipos ∧ t.fp.iend = s.fp.iend) ∧
    (i.isCommand = false → t.fp.iend = s.fp.iend) ∧
    ((∀ v b o n p, i ≠ .upblk v b o n p) → (∀ b o d, i ≠ .recData b o d) →
      t.fp.curbank = s.fp.curbank ∧ t.fp.curoff = s.fp.curoff ∧ t.fp.remain = s.fp.remain ∧
      t.fp.srcptr = s.fp.srcptr ∧ t.fp.chunklen = s.fp.chunklen ∧ t.fp.verify = s.fp.verify ∧ t.fp.vbuf = s.fp.vbuf)

/-- R38, R71, R155: RDB changes PBUF only at the automatic stop of its read, and there exactly the bytes it has
received, from index 0. -/
def Obligations.RdbWritesReceivedBytesOnly : Prop :=
  ∀ (sa : BitVec 7) (reg : Byte) (cnt : BitVec 16) (s t : State), exec (.rdb sa reg cnt) s = .next t →
    (s.seq.phase ≠ .cmd .rdb (.r .stop2) → samePbuf s t) ∧
    (s.seq.phase = .cmd .rdb (.r .stop2) →
      ∀ a, t.pbufByte a = if a < s.seq.rbuf.length then s.seq.rbuf.getD a 0 else s.pbufByte a)

/-- R26, R27, R38: the clock registers, INITD, QEN and IRS change only at the first step of INIT and SETUP and at a
timeout recovery; TMPB only at the end of the read of RDBIT, of a read-modify-write command and of the FIFO reset of the
sample commands; BUSY and RESULT only where a command ends. -/
def Obligations.OnlyResetsWriteTheController : Prop :=
  ∀ (i : Instr) (s t : State), exec i s = .next t →
    ((s.seq.phase = .accepted → i ≠ .init ∧ i ≠ .setup) →
      (∀ k, s.seq.phase ≠ .cmd k (.r .timeout) ∧ s.seq.phase ≠ .record k (.r .timeout)) → sameController s t) ∧
    (keepsByte i = true → t.bt.tmpb = s.bt.tmpb) ∧
    (phaseFits i s.seq.phase = true →
      (∀ k ∈ [Site.rdbit, .rmwRead, .ovfRead], s.seq.phase ≠ .cmd k (.r .stop2)) → t.bt.tmpb = s.bt.tmpb) ∧
    (t.seq.phase ≠ .idle → t.busy = s.busy ∧ t.result = s.result)

/-- R273: a command ends only with a code that R273 gives it: the ending it goes to has such a code, and where it ends
directly, from its checks, RESULT has. -/
def Obligations.CommandsEndWithTheirCodes : Prop :=
  ∀ (i : Instr) (s t : State), phaseFits i s.seq.phase = true → i.isCommand = true → exec i s = .next t →
    (∀ e, t.seq.phase = .ending e → mayEndWith i e.code = true) ∧
    (accepted s → t.seq.phase = .idle → mayEndWith i t.result.code = true)

/-! ## Invariants -/

/-- Every step keeps the control invariant, from every state that has it, and leaves CFG as it is (R36): BUSY is 1
exactly while a command is running, VALID is 0 while BUSY, QEN is 0 (R27), IRS and INITD agree (R141, R142), a
DEVSTAT other than Disconnected implies INITD (R240), and a command that is at the bus has INITD (R140). -/
def Obligations.ControlInvariantIsKept : Prop :=
  ∀ s t : State, controlInv s → step s = .next t → controlInv t ∧ t.cfg = s.cfg

/-- Every step keeps the upload invariant: a chunk never crosses its bank, an upload never leaves DMEM or IMG, and the
record cursor never leaves its image (R31, R201, R204, R255). -/
def Obligations.UploadInvariantIsKept : Prop :=
  ∀ s t : State, uploadInv s → step s = .next t → uploadInv t

/-- Every step keeps the transfer invariant: BCNT counts the bytes of a read exactly, ends at 0 and never passes below
it, and repeat mode is a write's (R27, R153, R255). -/
def Obligations.TransferInvariantIsKept : Prop :=
  ∀ s t : State, uploadInv s → transferInv s → step s = .next t → transferInv t

/-- Every step keeps PBUF and IMG in their canonical form: the addresses of their cells strictly rise. The form is the
model's (log entry 7). -/
def Obligations.MemoriesStayCanonical : Prop :=
  ∀ s t : State, memoryInv s → step s = .next t → memoryInv t

/-- Every step keeps the command phase one of the running instruction's own, and from such a state no step ends in the
fault for a phase that is no one's. The phases are the model's (R35 (e), log entries 9, 12). -/
def Obligations.PhaseInvariantIsKeptAndSafe : Prop :=
  ∀ s : State, controlInv s → phaseInv s →
    (∀ t, step s = .next t → phaseInv t) ∧ step s ≠ .fault .noSuchPhase

/-- The state after reset has every invariant, under every configuration. -/
def Obligations.ResetHasEveryInvariant : Prop :=
  ∀ (c : Cfg) (n : Nat),
    controlInv (State.afterReset c n) ∧ uploadInv (State.afterReset c n) ∧ transferInv (State.afterReset c n) ∧
    memoryInv (State.afterReset c n) ∧ phaseInv (State.afterReset c n)
end

