-- ==== Sys2Proof/Laws/State.lean ====
section
/-! SUPPORT. What each state update leaves in each field of State: one lemma per field per update, true by `rfl`, so
that no proof unfolds a record update. -/

namespace Sys2Proof.Machine

variable (s : State)

@[simp] theorem State.goto_cfg (p : Phase) : (s.goto p).cfg = s.cfg := rfl
@[simp] theorem State.goto_cmdr (p : Phase) : (s.goto p).cmdr = s.cmdr := rfl
@[simp] theorem State.goto_busy (p : Phase) : (s.goto p).busy = s.busy := rfl
@[simp] theorem State.goto_result (p : Phase) : (s.goto p).result = s.result := rfl
@[simp] theorem State.goto_bt (p : Phase) : (s.goto p).bt = s.bt := rfl
@[simp] theorem State.goto_fp (p : Phase) : (s.goto p).fp = s.fp := rfl
@[simp] theorem State.goto_ae (p : Phase) : (s.goto p).ae = s.ae := rfl
@[simp] theorem State.goto_smpStatus (p : Phase) : (s.goto p).smpStatus = s.smpStatus := rfl
@[simp] theorem State.goto_smp (p : Phase) : (s.goto p).smp = s.smp := rfl
@[simp] theorem State.goto_pbuf (p : Phase) : (s.goto p).pbuf = s.pbuf := rfl
@[simp] theorem State.goto_img (p : Phase) : (s.goto p).img = s.img := rfl
@[simp] theorem State.goto_trace (p : Phase) : (s.goto p).trace = s.trace := rfl
@[simp] theorem State.goto_seq (p : Phase) : (s.goto p).seq = { s.seq with phase := p } := rfl
@[simp] theorem State.goto_epoch (p : Phase) : (s.goto p).epoch = s.epoch := rfl
@[simp] theorem State.goto_moves (p : Phase) : (s.goto p).moves = s.moves := rfl
@[simp] theorem State.goto_env (p : Phase) : (s.goto p).env = s.env := rfl

@[simp] theorem State.fail_cfg (code cause : Code) : (s.fail code cause).cfg = s.cfg := rfl
@[simp] theorem State.fail_cmdr (code cause : Code) : (s.fail code cause).cmdr = s.cmdr := rfl
@[simp] theorem State.fail_busy (code cause : Code) : (s.fail code cause).busy = false := rfl
@[simp] theorem State.fail_result (code cause : Code) :
    (s.fail code cause).result = ⟨code, cause, false, true⟩ := rfl
@[simp] theorem State.fail_bt (code cause : Code) : (s.fail code cause).bt = s.bt := rfl
@[simp] theorem State.fail_fp (code cause : Code) : (s.fail code cause).fp = s.fp := rfl
@[simp] theorem State.fail_ae (code cause : Code) : (s.fail code cause).ae = s.ae := rfl
@[simp] theorem State.fail_smpStatus (code cause : Code) : (s.fail code cause).smpStatus = s.smpStatus := rfl
@[simp] theorem State.fail_smp (code cause : Code) : (s.fail code cause).smp = s.smp := rfl
@[simp] theorem State.fail_pbuf (code cause : Code) : (s.fail code cause).pbuf = s.pbuf := rfl
@[simp] theorem State.fail_img (code cause : Code) : (s.fail code cause).img = s.img := rfl
@[simp] theorem State.fail_trace (code cause : Code) : (s.fail code cause).trace = s.trace := rfl
@[simp] theorem State.fail_seq (code cause : Code) :
    (s.fail code cause).seq = { s.seq with phase := .idle } := rfl
@[simp] theorem State.fail_epoch (code cause : Code) : (s.fail code cause).epoch = s.epoch := rfl
@[simp] theorem State.fail_moves (code cause : Code) : (s.fail code cause).moves = s.moves := rfl
@[simp] theorem State.fail_env (code cause : Code) : (s.fail code cause).env = s.env := rfl

@[simp] theorem State.succeed_cfg (rbit : Bool) : (s.succeed rbit).cfg = s.cfg := rfl
@[simp] theorem State.succeed_cmdr (rbit : Bool) : (s.succeed rbit).cmdr = s.cmdr := rfl
@[simp] theorem State.succeed_busy (rbit : Bool) : (s.succeed rbit).busy = false := rfl
@[simp] theorem State.succeed_result (rbit : Bool) : (s.succeed rbit).result = ⟨.ok, .ok, rbit, true⟩ := rfl
@[simp] theorem State.succeed_bt (rbit : Bool) : (s.succeed rbit).bt = s.bt := rfl
@[simp] theorem State.succeed_fp (rbit : Bool) : (s.succeed rbit).fp = s.fp := rfl
@[simp] theorem State.succeed_ae (rbit : Bool) : (s.succeed rbit).ae = s.ae := rfl
@[simp] theorem State.succeed_smpStatus (rbit : Bool) : (s.succeed rbit).smpStatus = s.smpStatus := rfl
@[simp] theorem State.succeed_smp (rbit : Bool) : (s.succeed rbit).smp = s.smp := rfl
@[simp] theorem State.succeed_pbuf (rbit : Bool) : (s.succeed rbit).pbuf = s.pbuf := rfl
@[simp] theorem State.succeed_img (rbit : Bool) : (s.succeed rbit).img = s.img := rfl
@[simp] theorem State.succeed_trace (rbit : Bool) : (s.succeed rbit).trace = s.trace := rfl
@[simp] theorem State.succeed_seq (rbit : Bool) : (s.succeed rbit).seq = { s.seq with phase := .idle } := rfl
@[simp] theorem State.succeed_epoch (rbit : Bool) : (s.succeed rbit).epoch = s.epoch := rfl
@[simp] theorem State.succeed_moves (rbit : Bool) : (s.succeed rbit).moves = s.moves := rfl
@[simp] theorem State.succeed_env (rbit : Bool) : (s.succeed rbit).env = s.env := rfl

@[simp] theorem State.storePbuf_cfg (bytes : List Byte) : (s.storePbuf bytes).cfg = s.cfg := rfl
@[simp] theorem State.storePbuf_cmdr (bytes : List Byte) : (s.storePbuf bytes).cmdr = s.cmdr := rfl
@[simp] theorem State.storePbuf_busy (bytes : List Byte) : (s.storePbuf bytes).busy = s.busy := rfl
@[simp] theorem State.storePbuf_result (bytes : List Byte) : (s.storePbuf bytes).result = s.result := rfl
@[simp] theorem State.storePbuf_bt (bytes : List Byte) : (s.storePbuf bytes).bt = s.bt := rfl
@[simp] theorem State.storePbuf_fp (bytes : List Byte) : (s.storePbuf bytes).fp = s.fp := rfl
@[simp] theorem State.storePbuf_ae (bytes : List Byte) : (s.storePbuf bytes).ae = s.ae := rfl
@[simp] theorem State.storePbuf_smpStatus (bytes : List Byte) : (s.storePbuf bytes).smpStatus = s.smpStatus := rfl
@[simp] theorem State.storePbuf_smp (bytes : List Byte) : (s.storePbuf bytes).smp = s.smp := rfl
@[simp] theorem State.storePbuf_pbuf (bytes : List Byte) :
    (s.storePbuf bytes).pbuf = Memory.writeAll s.pbuf 0 bytes := rfl
@[simp] theorem State.storePbuf_img (bytes : List Byte) : (s.storePbuf bytes).img = s.img := rfl
@[simp] theorem State.storePbuf_trace (bytes : List Byte) : (s.storePbuf bytes).trace = s.trace := rfl
@[simp] theorem State.storePbuf_seq (bytes : List Byte) : (s.storePbuf bytes).seq = s.seq := rfl
@[simp] theorem State.storePbuf_epoch (bytes : List Byte) : (s.storePbuf bytes).epoch = s.epoch := rfl
@[simp] theorem State.storePbuf_moves (bytes : List Byte) : (s.storePbuf bytes).moves = s.moves := rfl
@[simp] theorem State.storePbuf_env (bytes : List Byte) : (s.storePbuf bytes).env = s.env := rfl

@[simp] theorem State.start_cfg (dir : Dir) : (s.start dir).2.cfg = s.cfg := rfl
@[simp] theorem State.start_cmdr (dir : Dir) : (s.start dir).2.cmdr = s.cmdr := rfl
@[simp] theorem State.start_busy (dir : Dir) : (s.start dir).2.busy = s.busy := rfl
@[simp] theorem State.start_result (dir : Dir) : (s.start dir).2.result = s.result := rfl
@[simp] theorem State.start_bt (dir : Dir) :
    (s.start dir).2.bt = noteAnswer (s.env.askAddr s.bt.sa dir).1 (startModes dir s.bt) := rfl
@[simp] theorem State.start_fp (dir : Dir) : (s.start dir).2.fp = s.fp := rfl
@[simp] theorem State.start_ae (dir : Dir) : (s.start dir).2.ae = s.ae := rfl
@[simp] theorem State.start_smpStatus (dir : Dir) : (s.start dir).2.smpStatus = s.smpStatus := rfl
@[simp] theorem State.start_smp (dir : Dir) : (s.start dir).2.smp = s.smp := rfl
@[simp] theorem State.start_pbuf (dir : Dir) : (s.start dir).2.pbuf = s.pbuf := rfl
@[simp] theorem State.start_img (dir : Dir) : (s.start dir).2.img = s.img := rfl
@[simp] theorem State.start_trace (dir : Dir) :
    (s.start dir).2.trace = s.trace ++ [.start, .addr s.bt.sa dir (s.env.askAddr s.bt.sa dir).1] := rfl
@[simp] theorem State.start_seq (dir : Dir) : (s.start dir).2.seq = s.seq := rfl
@[simp] theorem State.start_epoch (dir : Dir) : (s.start dir).2.epoch = s.epoch := rfl
@[simp] theorem State.start_moves (dir : Dir) : (s.start dir).2.moves = s.moves := rfl
@[simp] theorem State.start_env (dir : Dir) : (s.start dir).2.env = (s.env.askAddr s.bt.sa dir).2 := rfl

@[simp] theorem State.tx_cfg (b : Byte) : (s.tx b).2.cfg = s.cfg := rfl
@[simp] theorem State.tx_cmdr (b : Byte) : (s.tx b).2.cmdr = s.cmdr := rfl
@[simp] theorem State.tx_busy (b : Byte) : (s.tx b).2.busy = s.busy := rfl
@[simp] theorem State.tx_result (b : Byte) : (s.tx b).2.result = s.result := rfl
@[simp] theorem State.tx_bt (b : Byte) :
    (s.tx b).2.bt = noteAnswer (s.env.askTx s.cfg.dev b).1 (countTx s.bt) := rfl
@[simp] theorem State.tx_fp (b : Byte) : (s.tx b).2.fp = s.fp := rfl
@[simp] theorem State.tx_ae (b : Byte) : (s.tx b).2.ae = s.ae := rfl
@[simp] theorem State.tx_smpStatus (b : Byte) : (s.tx b).2.smpStatus = s.smpStatus := rfl
@[simp] theorem State.tx_smp (b : Byte) : (s.tx b).2.smp = s.smp := rfl
@[simp] theorem State.tx_pbuf (b : Byte) : (s.tx b).2.pbuf = s.pbuf := rfl
@[simp] theorem State.tx_img (b : Byte) : (s.tx b).2.img = s.img := rfl
@[simp] theorem State.tx_trace (b : Byte) :
    (s.tx b).2.trace = s.trace ++ [.tx b (s.env.askTx s.cfg.dev b).1] := rfl
@[simp] theorem State.tx_seq (b : Byte) : (s.tx b).2.seq = s.seq := rfl
@[simp] theorem State.tx_epoch (b : Byte) : (s.tx b).2.epoch = s.epoch := rfl
@[simp] theorem State.tx_moves (b : Byte) : (s.tx b).2.moves = s.moves := rfl
@[simp] theorem State.tx_env (b : Byte) : (s.tx b).2.env = (s.env.askTx s.cfg.dev b).2 := rfl

@[simp] theorem State.rx_cfg : s.rx.cfg = s.cfg := rfl
@[simp] theorem State.rx_cmdr : s.rx.cmdr = s.cmdr := rfl
@[simp] theorem State.rx_busy : s.rx.busy = s.busy := rfl
@[simp] theorem State.rx_result : s.rx.result = s.result := rfl
@[simp] theorem State.rx_bt : s.rx.bt = countDown s.bt := rfl
@[simp] theorem State.rx_fp : s.rx.fp = s.fp := rfl
@[simp] theorem State.rx_ae : s.rx.ae = s.ae := rfl
@[simp] theorem State.rx_smpStatus : s.rx.smpStatus = s.smpStatus := rfl
@[simp] theorem State.rx_smp : s.rx.smp = s.smp := rfl
@[simp] theorem State.rx_pbuf : s.rx.pbuf = s.pbuf := rfl
@[simp] theorem State.rx_img : s.rx.img = s.img := rfl
@[simp] theorem State.rx_trace : s.rx.trace = s.trace ++ [.rx (s.env.askRx s.cfg.dev).1] := rfl
@[simp] theorem State.rx_seq : s.rx.seq = { s.seq with rbuf := s.seq.rbuf ++ [(s.env.askRx s.cfg.dev).1] } := rfl
@[simp] theorem State.rx_epoch : s.rx.epoch = s.epoch := rfl
@[simp] theorem State.rx_moves : s.rx.moves = s.moves := rfl
@[simp] theorem State.rx_env : s.rx.env = (s.env.askRx s.cfg.dev).2 := rfl

@[simp] theorem State.stop_cfg : s.stop.cfg = s.cfg := rfl
@[simp] theorem State.stop_cmdr : s.stop.cmdr = s.cmdr := rfl
@[simp] theorem State.stop_busy : s.stop.busy = s.busy := rfl
@[simp] theorem State.stop_result : s.stop.result = s.result := rfl
@[simp] theorem State.stop_bt : s.stop.bt = stopModes s.bt := rfl
@[simp] theorem State.stop_fp : s.stop.fp = s.fp := rfl
@[simp] theorem State.stop_ae : s.stop.ae = s.ae := rfl
@[simp] theorem State.stop_smpStatus : s.stop.smpStatus = s.smpStatus := rfl
@[simp] theorem State.stop_smp : s.stop.smp = s.smp := rfl
@[simp] theorem State.stop_pbuf : s.stop.pbuf = s.pbuf := rfl
@[simp] theorem State.stop_img : s.stop.img = s.img := rfl
@[simp] theorem State.stop_trace : s.stop.trace = s.trace ++ [.stop] := rfl
@[simp] theorem State.stop_seq : s.stop.seq = s.seq := rfl
@[simp] theorem State.stop_epoch : s.stop.epoch = s.epoch := rfl
@[simp] theorem State.stop_moves : s.stop.moves = s.moves := rfl
@[simp] theorem State.stop_env : s.stop.env = s.env := rfl

@[simp] theorem State.pollReady_cfg : s.pollReady.2.cfg = s.cfg := rfl
@[simp] theorem State.pollReady_cmdr : s.pollReady.2.cmdr = s.cmdr := rfl
@[simp] theorem State.pollReady_busy : s.pollReady.2.busy = s.busy := rfl
@[simp] theorem State.pollReady_result : s.pollReady.2.result = s.result := rfl
@[simp] theorem State.pollReady_bt : s.pollReady.2.bt = { s.bt with ardy := s.bt.ardy || s.env.askReady.1 } := rfl
@[simp] theorem State.pollReady_fp : s.pollReady.2.fp = s.fp := rfl
@[simp] theorem State.pollReady_ae : s.pollReady.2.ae = s.ae := rfl
@[simp] theorem State.pollReady_smpStatus : s.pollReady.2.smpStatus = s.smpStatus := rfl
@[simp] theorem State.pollReady_smp : s.pollReady.2.smp = s.smp := rfl
@[simp] theorem State.pollReady_pbuf : s.pollReady.2.pbuf = s.pbuf := rfl
@[simp] theorem State.pollReady_img : s.pollReady.2.img = s.img := rfl
@[simp] theorem State.pollReady_trace : s.pollReady.2.trace = s.trace ++ [.ready s.env.askReady.1] := rfl
@[simp] theorem State.pollReady_seq : s.pollReady.2.seq = s.seq := rfl
@[simp] theorem State.pollReady_epoch : s.pollReady.2.epoch = s.epoch := rfl
@[simp] theorem State.pollReady_moves : s.pollReady.2.moves = s.moves := rfl
@[simp] theorem State.pollReady_env : s.pollReady.2.env = s.env.askReady.2 := rfl

@[simp] theorem State.busReset_cfg : s.busReset.cfg = s.cfg := rfl
@[simp] theorem State.busReset_cmdr : s.busReset.cmdr = s.cmdr := rfl
@[simp] theorem State.busReset_busy : s.busReset.busy = s.busy := rfl
@[simp] theorem State.busReset_result : s.busReset.result = s.result := rfl
@[simp] theorem State.busReset_bt : s.busReset.bt = busResetRegs s.bt := rfl
@[simp] theorem State.busReset_fp : s.busReset.fp = s.fp := rfl
@[simp] theorem State.busReset_ae : s.busReset.ae = s.ae := rfl
@[simp] theorem State.busReset_smpStatus : s.busReset.smpStatus = s.smpStatus := rfl
@[simp] theorem State.busReset_smp : s.busReset.smp = s.smp := rfl
@[simp] theorem State.busReset_pbuf : s.busReset.pbuf = s.pbuf := rfl
@[simp] theorem State.busReset_img : s.busReset.img = s.img := rfl
@[simp] theorem State.busReset_trace : s.busReset.trace = s.trace ++ [.reset] := rfl
@[simp] theorem State.busReset_seq : s.busReset.seq = s.seq := rfl
@[simp] theorem State.busReset_epoch : s.busReset.epoch = s.epoch := rfl
@[simp] theorem State.busReset_moves : s.busReset.moves = s.moves := rfl
@[simp] theorem State.busReset_env : s.busReset.env = s.env := rfl

@[simp] theorem State.busInit_cfg : s.busInit.cfg = s.cfg := rfl
@[simp] theorem State.busInit_cmdr : s.busInit.cmdr = s.cmdr := rfl
@[simp] theorem State.busInit_busy : s.busInit.busy = s.busy := rfl
@[simp] theorem State.busInit_result : s.busInit.result = s.result := rfl
@[simp] theorem State.busInit_bt : s.busInit.bt = busInitRegs s.cfg s.bt := rfl
@[simp] theorem State.busInit_fp : s.busInit.fp = s.fp := rfl
@[simp] theorem State.busInit_ae : s.busInit.ae = s.ae := rfl
@[simp] theorem State.busInit_smpStatus : s.busInit.smpStatus = s.smpStatus := rfl
@[simp] theorem State.busInit_smp : s.busInit.smp = s.smp := rfl
@[simp] theorem State.busInit_pbuf : s.busInit.pbuf = s.pbuf := rfl
@[simp] theorem State.busInit_img : s.busInit.img = s.img := rfl
@[simp] theorem State.busInit_trace : s.busInit.trace = s.trace ++ [.init] := rfl
@[simp] theorem State.busInit_seq : s.busInit.seq = s.seq := rfl
@[simp] theorem State.busInit_epoch : s.busInit.epoch = s.epoch := rfl
@[simp] theorem State.busInit_moves : s.busInit.moves = s.moves := rfl
@[simp] theorem State.busInit_env : s.busInit.env = s.env := rfl

@[simp] theorem State.timeoutRecovery_cfg : s.timeoutRecovery.cfg = s.cfg := rfl
@[simp] theorem State.timeoutRecovery_cmdr : s.timeoutRecovery.cmdr = s.cmdr := rfl
@[simp] theorem State.timeoutRecovery_busy : s.timeoutRecovery.busy = s.busy := rfl
@[simp] theorem State.timeoutRecovery_result : s.timeoutRecovery.result = s.result := rfl
@[simp] theorem State.timeoutRecovery_bt :
    s.timeoutRecovery.bt =
      busInitRegs s.cfg (busResetRegs (stopModes { s.bt with ardy := false, nack := false, arbl := false })) := rfl
@[simp] theorem State.timeoutRecovery_fp : s.timeoutRecovery.fp = s.fp := rfl
@[simp] theorem State.timeoutRecovery_ae : s.timeoutRecovery.ae = s.ae := rfl
@[simp] theorem State.timeoutRecovery_smpStatus : s.timeoutRecovery.smpStatus = s.smpStatus := rfl
@[simp] theorem State.timeoutRecovery_smp : s.timeoutRecovery.smp = s.smp := rfl
@[simp] theorem State.timeoutRecovery_pbuf : s.timeoutRecovery.pbuf = s.pbuf := rfl
@[simp] theorem State.timeoutRecovery_img : s.timeoutRecovery.img = s.img := rfl
@[simp] theorem State.timeoutRecovery_trace :
    s.timeoutRecovery.trace = s.trace ++ [.stop] ++ [.reset] ++ [.init] := rfl
@[simp] theorem State.timeoutRecovery_seq : s.timeoutRecovery.seq = s.seq := rfl
@[simp] theorem State.timeoutRecovery_epoch : s.timeoutRecovery.epoch = s.epoch := rfl
@[simp] theorem State.timeoutRecovery_moves : s.timeoutRecovery.moves = s.moves := rfl
@[simp] theorem State.timeoutRecovery_env : s.timeoutRecovery.env = s.env := rfl

@[simp] theorem State.clearNack_cfg : s.clearNack.cfg = s.cfg := rfl
@[simp] theorem State.clearNack_cmdr : s.clearNack.cmdr = s.cmdr := rfl
@[simp] theorem State.clearNack_busy : s.clearNack.busy = s.busy := rfl
@[simp] theorem State.clearNack_result : s.clearNack.result = s.result := rfl
@[simp] theorem State.clearNack_bt : s.clearNack.bt = { s.bt with nack := false } := rfl
@[simp] theorem State.clearNack_fp : s.clearNack.fp = s.fp := rfl
@[simp] theorem State.clearNack_ae : s.clearNack.ae = s.ae := rfl
@[simp] theorem State.clearNack_smpStatus : s.clearNack.smpStatus = s.smpStatus := rfl
@[simp] theorem State.clearNack_smp : s.clearNack.smp = s.smp := rfl
@[simp] theorem State.clearNack_pbuf : s.clearNack.pbuf = s.pbuf := rfl
@[simp] theorem State.clearNack_img : s.clearNack.img = s.img := rfl
@[simp] theorem State.clearNack_trace : s.clearNack.trace = s.trace := rfl
@[simp] theorem State.clearNack_seq : s.clearNack.seq = s.seq := rfl
@[simp] theorem State.clearNack_epoch : s.clearNack.epoch = s.epoch := rfl
@[simp] theorem State.clearNack_moves : s.clearNack.moves = s.moves := rfl
@[simp] theorem State.clearNack_env : s.clearNack.env = s.env := rfl

@[simp] theorem State.dropTrx_cfg : s.dropTrx.cfg = s.cfg := rfl
@[simp] theorem State.dropTrx_cmdr : s.dropTrx.cmdr = s.cmdr := rfl
@[simp] theorem State.dropTrx_busy : s.dropTrx.busy = s.busy := rfl
@[simp] theorem State.dropTrx_result : s.dropTrx.result = s.result := rfl
@[simp] theorem State.dropTrx_bt : s.dropTrx.bt = { s.bt with trx := false } := rfl
@[simp] theorem State.dropTrx_fp : s.dropTrx.fp = s.fp := rfl
@[simp] theorem State.dropTrx_ae : s.dropTrx.ae = s.ae := rfl
@[simp] theorem State.dropTrx_smpStatus : s.dropTrx.smpStatus = s.smpStatus := rfl
@[simp] theorem State.dropTrx_smp : s.dropTrx.smp = s.smp := rfl
@[simp] theorem State.dropTrx_pbuf : s.dropTrx.pbuf = s.pbuf := rfl
@[simp] theorem State.dropTrx_img : s.dropTrx.img = s.img := rfl
@[simp] theorem State.dropTrx_trace : s.dropTrx.trace = s.trace := rfl
@[simp] theorem State.dropTrx_seq : s.dropTrx.seq = s.seq := rfl
@[simp] theorem State.dropTrx_epoch : s.dropTrx.epoch = s.epoch := rfl
@[simp] theorem State.dropTrx_moves : s.dropTrx.moves = s.moves := rfl
@[simp] theorem State.dropTrx_env : s.dropTrx.env = s.env := rfl

@[simp] theorem State.beginWrite_cfg (sa : BitVec 7) (reg : Byte) (data : List Byte) (here : XferAt → Phase) :
    (s.beginWrite sa reg data here).cfg = s.cfg := rfl
@[simp] theorem State.beginWrite_cmdr (sa : BitVec 7) (reg : Byte) (data : List Byte) (here : XferAt → Phase) :
    (s.beginWrite sa reg data here).cmdr = s.cmdr := rfl
@[simp] theorem State.beginWrite_busy (sa : BitVec 7) (reg : Byte) (data : List Byte) (here : XferAt → Phase) :
    (s.beginWrite sa reg data here).busy = s.busy := rfl
@[simp] theorem State.beginWrite_result (sa : BitVec 7) (reg : Byte) (data : List Byte) (here : XferAt → Phase) :
    (s.beginWrite sa reg data here).result = s.result := rfl
@[simp] theorem State.beginWrite_bt (sa : BitVec 7) (reg : Byte) (data : List Byte) (here : XferAt → Phase) :
    (s.beginWrite sa reg data here).bt =
      writeAttempt { s.bt with sa := sa, rega := reg, cnt := BitVec.ofNat 16 data.length, retry := false } := rfl
@[simp] theorem State.beginWrite_fp (sa : BitVec 7) (reg : Byte) (data : List Byte) (here : XferAt → Phase) :
    (s.beginWrite sa reg data here).fp = s.fp := rfl
@[simp] theorem State.beginWrite_ae (sa : BitVec 7) (reg : Byte) (data : List Byte) (here : XferAt → Phase) :
    (s.beginWrite sa reg data here).ae = s.ae := rfl
@[simp] theorem State.beginWrite_smpStatus (sa : BitVec 7) (reg : Byte) (data : List Byte) (here : XferAt → Phase) :
    (s.beginWrite sa reg data here).smpStatus = s.smpStatus := rfl
@[simp] theorem State.beginWrite_smp (sa : BitVec 7) (reg : Byte) (data : List Byte) (here : XferAt → Phase) :
    (s.beginWrite sa reg data here).smp = s.smp := rfl
@[simp] theorem State.beginWrite_pbuf (sa : BitVec 7) (reg : Byte) (data : List Byte) (here : XferAt → Phase) :
    (s.beginWrite sa reg data here).pbuf = s.pbuf := rfl
@[simp] theorem State.beginWrite_img (sa : BitVec 7) (reg : Byte) (data : List Byte) (here : XferAt → Phase) :
    (s.beginWrite sa reg data here).img = s.img := rfl
@[simp] theorem State.beginWrite_trace (sa : BitVec 7) (reg : Byte) (data : List Byte) (here : XferAt → Phase) :
    (s.beginWrite sa reg data here).trace = s.trace := rfl
@[simp] theorem State.beginWrite_seq (sa : BitVec 7) (reg : Byte) (data : List Byte) (here : XferAt → Phase) :
    (s.beginWrite sa reg data here).seq = { s.seq with txbuf := data, phase := here (.w .start) } := rfl
@[simp] theorem State.beginWrite_epoch (sa : BitVec 7) (reg : Byte) (data : List Byte) (here : XferAt → Phase) :
    (s.beginWrite sa reg data here).epoch = s.epoch := rfl
@[simp] theorem State.beginWrite_moves (sa : BitVec 7) (reg : Byte) (data : List Byte) (here : XferAt → Phase) :
    (s.beginWrite sa reg data here).moves = s.moves := rfl
@[simp] theorem State.beginWrite_env (sa : BitVec 7) (reg : Byte) (data : List Byte) (here : XferAt → Phase) :
    (s.beginWrite sa reg data here).env = s.env := rfl

@[simp] theorem State.beginRead_cfg (sa : BitVec 7) (reg : Byte) (n : BitVec 16) (here : XferAt → Phase) :
    (s.beginRead sa reg n here).cfg = s.cfg := rfl
@[simp] theorem State.beginRead_cmdr (sa : BitVec 7) (reg : Byte) (n : BitVec 16) (here : XferAt → Phase) :
    (s.beginRead sa reg n here).cmdr = s.cmdr := rfl
@[simp] theorem State.beginRead_busy (sa : BitVec 7) (reg : Byte) (n : BitVec 16) (here : XferAt → Phase) :
    (s.beginRead sa reg n here).busy = s.busy := rfl
@[simp] theorem State.beginRead_result (sa : BitVec 7) (reg : Byte) (n : BitVec 16) (here : XferAt → Phase) :
    (s.beginRead sa reg n here).result = s.result := rfl
@[simp] theorem State.beginRead_bt (sa : BitVec 7) (reg : Byte) (n : BitVec 16) (here : XferAt → Phase) :
    (s.beginRead sa reg n here).bt = readAttempt 1 { s.bt with sa := sa, rega := reg, cnt := n } := rfl
@[simp] theorem State.beginRead_fp (sa : BitVec 7) (reg : Byte) (n : BitVec 16) (here : XferAt → Phase) :
    (s.beginRead sa reg n here).fp = s.fp := rfl
@[simp] theorem State.beginRead_ae (sa : BitVec 7) (reg : Byte) (n : BitVec 16) (here : XferAt → Phase) :
    (s.beginRead sa reg n here).ae = s.ae := rfl
@[simp] theorem State.beginRead_smpStatus (sa : BitVec 7) (reg : Byte) (n : BitVec 16) (here : XferAt → Phase) :
    (s.beginRead sa reg n here).smpStatus = s.smpStatus := rfl
@[simp] theorem State.beginRead_smp (sa : BitVec 7) (reg : Byte) (n : BitVec 16) (here : XferAt → Phase) :
    (s.beginRead sa reg n here).smp = s.smp := rfl
@[simp] theorem State.beginRead_pbuf (sa : BitVec 7) (reg : Byte) (n : BitVec 16) (here : XferAt → Phase) :
    (s.beginRead sa reg n here).pbuf = s.pbuf := rfl
@[simp] theorem State.beginRead_img (sa : BitVec 7) (reg : Byte) (n : BitVec 16) (here : XferAt → Phase) :
    (s.beginRead sa reg n here).img = s.img := rfl
@[simp] theorem State.beginRead_trace (sa : BitVec 7) (reg : Byte) (n : BitVec 16) (here : XferAt → Phase) :
    (s.beginRead sa reg n here).trace = s.trace := rfl
@[simp] theorem State.beginRead_seq (sa : BitVec 7) (reg : Byte) (n : BitVec 16) (here : XferAt → Phase) :
    (s.beginRead sa reg n here).seq = { s.seq with rbuf := [], phase := here (.r .start1) } := rfl
@[simp] theorem State.beginRead_epoch (sa : BitVec 7) (reg : Byte) (n : BitVec 16) (here : XferAt → Phase) :
    (s.beginRead sa reg n here).epoch = s.epoch := rfl
@[simp] theorem State.beginRead_moves (sa : BitVec 7) (reg : Byte) (n : BitVec 16) (here : XferAt → Phase) :
    (s.beginRead sa reg n here).moves = s.moves := rfl
@[simp] theorem State.beginRead_env (sa : BitVec 7) (reg : Byte) (n : BitVec 16) (here : XferAt → Phase) :
    (s.beginRead sa reg n here).env = s.env := rfl

@[simp] theorem State.setDevstat_cfg (d : DevStat) : (s.setDevstat d).cfg = s.cfg := rfl
@[simp] theorem State.setDevstat_cmdr (d : DevStat) : (s.setDevstat d).cmdr = s.cmdr := rfl
@[simp] theorem State.setDevstat_busy (d : DevStat) : (s.setDevstat d).busy = s.busy := rfl
@[simp] theorem State.setDevstat_result (d : DevStat) : (s.setDevstat d).result = s.result := rfl
@[simp] theorem State.setDevstat_bt (d : DevStat) : (s.setDevstat d).bt = s.bt := rfl
@[simp] theorem State.setDevstat_fp (d : DevStat) : (s.setDevstat d).fp = s.fp := rfl
@[simp] theorem State.setDevstat_ae (d : DevStat) : (s.setDevstat d).ae = { s.ae with devstat := d } := rfl
@[simp] theorem State.setDevstat_smpStatus (d : DevStat) : (s.setDevstat d).smpStatus = s.smpStatus := rfl
@[simp] theorem State.setDevstat_smp (d : DevStat) : (s.setDevstat d).smp = s.smp := rfl
@[simp] theorem State.setDevstat_pbuf (d : DevStat) : (s.setDevstat d).pbuf = s.pbuf := rfl
@[simp] theorem State.setDevstat_img (d : DevStat) : (s.setDevstat d).img = s.img := rfl
@[simp] theorem State.setDevstat_trace (d : DevStat) : (s.setDevstat d).trace = s.trace := rfl
@[simp] theorem State.setDevstat_seq (d : DevStat) : (s.setDevstat d).seq = s.seq := rfl
@[simp] theorem State.setDevstat_epoch (d : DevStat) : (s.setDevstat d).epoch = s.epoch := rfl
@[simp] theorem State.setDevstat_moves (d : DevStat) : (s.setDevstat d).moves = s.moves := rfl
@[simp] theorem State.setDevstat_env (d : DevStat) : (s.setDevstat d).env = s.env := rfl

@[simp] theorem imageEnter_cfg (src len : BitVec 16) (verify : Bool) :
    (imageEnter src len verify s).cfg = s.cfg := rfl
@[simp] theorem imageEnter_cmdr (src len : BitVec 16) (verify : Bool) :
    (imageEnter src len verify s).cmdr = s.cmdr := rfl
@[simp] theorem imageEnter_busy (src len : BitVec 16) (verify : Bool) :
    (imageEnter src len verify s).busy = s.busy := rfl
@[simp] theorem imageEnter_result (src len : BitVec 16) (verify : Bool) :
    (imageEnter src len verify s).result = s.result := rfl
@[simp] theorem imageEnter_bt (src len : BitVec 16) (verify : Bool) :
    (imageEnter src len verify s).bt = s.bt := rfl
@[simp] theorem imageEnter_fp (src len : BitVec 16) (verify : Bool) :
    (imageEnter src len verify s).fp =
      { s.fp with ipos := src.setWidth 17, iend := src.setWidth 17 + len.setWidth 17 } := rfl
@[simp] theorem imageEnter_ae (src len : BitVec 16) (verify : Bool) :
    (imageEnter src len verify s).ae = s.ae := rfl
@[simp] theorem imageEnter_smpStatus (src len : BitVec 16) (verify : Bool) :
    (imageEnter src len verify s).smpStatus = s.smpStatus := rfl
@[simp] theorem imageEnter_smp (src len : BitVec 16) (verify : Bool) :
    (imageEnter src len verify s).smp = s.smp := rfl
@[simp] theorem imageEnter_pbuf (src len : BitVec 16) (verify : Bool) :
    (imageEnter src len verify s).pbuf = s.pbuf := rfl
@[simp] theorem imageEnter_img (src len : BitVec 16) (verify : Bool) :
    (imageEnter src len verify s).img = s.img := rfl
@[simp] theorem imageEnter_trace (src len : BitVec 16) (verify : Bool) :
    (imageEnter src len verify s).trace = s.trace := rfl
@[simp] theorem imageEnter_seq (src len : BitVec 16) (verify : Bool) :
    (imageEnter src len verify s).seq = { s.seq with imgVerify := verify, phase := .image } := rfl
@[simp] theorem imageEnter_epoch (src len : BitVec 16) (verify : Bool) :
    (imageEnter src len verify s).epoch = s.epoch := rfl
@[simp] theorem imageEnter_moves (src len : BitVec 16) (verify : Bool) :
    (imageEnter src len verify s).moves = s.moves := rfl
@[simp] theorem imageEnter_env (src len : BitVec 16) (verify : Bool) :
    (imageEnter src len verify s).env = s.env := rfl

@[simp] theorem recordDone_cfg (size : Nat) : (recordDone size s).cfg = s.cfg := rfl
@[simp] theorem recordDone_cmdr (size : Nat) : (recordDone size s).cmdr = s.cmdr := rfl
@[simp] theorem recordDone_busy (size : Nat) : (recordDone size s).busy = s.busy := rfl
@[simp] theorem recordDone_result (size : Nat) : (recordDone size s).result = s.result := rfl
@[simp] theorem recordDone_bt (size : Nat) : (recordDone size s).bt = s.bt := rfl
@[simp] theorem recordDone_fp (size : Nat) :
    (recordDone size s).fp = { s.fp with ipos := s.fp.ipos + BitVec.ofNat 17 size } := rfl
@[simp] theorem recordDone_ae (size : Nat) : (recordDone size s).ae = s.ae := rfl
@[simp] theorem recordDone_smpStatus (size : Nat) : (recordDone size s).smpStatus = s.smpStatus := rfl
@[simp] theorem recordDone_smp (size : Nat) : (recordDone size s).smp = s.smp := rfl
@[simp] theorem recordDone_pbuf (size : Nat) : (recordDone size s).pbuf = s.pbuf := rfl
@[simp] theorem recordDone_img (size : Nat) : (recordDone size s).img = s.img := rfl
@[simp] theorem recordDone_trace (size : Nat) : (recordDone size s).trace = s.trace := rfl
@[simp] theorem recordDone_seq (size : Nat) : (recordDone size s).seq = { s.seq with phase := .image } := rfl
@[simp] theorem recordDone_epoch (size : Nat) : (recordDone size s).epoch = s.epoch := rfl
@[simp] theorem recordDone_moves (size : Nat) : (recordDone size s).moves = s.moves := rfl
@[simp] theorem recordDone_env (size : Nat) : (recordDone size s).env = s.env := rfl

@[simp] theorem sampleFailed_cfg (c : Code) : (sampleFailed c s).cfg = s.cfg := rfl
@[simp] theorem sampleFailed_cmdr (c : Code) : (sampleFailed c s).cmdr = s.cmdr := rfl
@[simp] theorem sampleFailed_busy (c : Code) : (sampleFailed c s).busy = s.busy := rfl
@[simp] theorem sampleFailed_result (c : Code) : (sampleFailed c s).result = s.result := rfl
@[simp] theorem sampleFailed_bt (c : Code) : (sampleFailed c s).bt = s.bt := rfl
@[simp] theorem sampleFailed_fp (c : Code) : (sampleFailed c s).fp = s.fp := rfl
@[simp] theorem sampleFailed_ae (c : Code) : (sampleFailed c s).ae = s.ae := rfl
@[simp] theorem sampleFailed_smpStatus (c : Code) : (sampleFailed c s).smpStatus = false := rfl
@[simp] theorem sampleFailed_smp (c : Code) : (sampleFailed c s).smp = s.smp := rfl
@[simp] theorem sampleFailed_pbuf (c : Code) : (sampleFailed c s).pbuf = s.pbuf := rfl
@[simp] theorem sampleFailed_img (c : Code) : (sampleFailed c s).img = s.img := rfl
@[simp] theorem sampleFailed_trace (c : Code) : (sampleFailed c s).trace = s.trace := rfl
@[simp] theorem sampleFailed_seq (c : Code) :
    (sampleFailed c s).seq = { s.seq with phase := .ending (.fail c .ok) } := rfl
@[simp] theorem sampleFailed_epoch (c : Code) : (sampleFailed c s).epoch = s.epoch := rfl
@[simp] theorem sampleFailed_moves (c : Code) : (sampleFailed c s).moves = s.moves := rfl
@[simp] theorem sampleFailed_env (c : Code) : (sampleFailed c s).env = s.env := rfl

@[simp] theorem commitSample_cfg (v : Sample) : (commitSample v s).cfg = s.cfg := rfl
@[simp] theorem commitSample_cmdr (v : Sample) : (commitSample v s).cmdr = s.cmdr := rfl
@[simp] theorem commitSample_busy (v : Sample) : (commitSample v s).busy = s.busy := rfl
@[simp] theorem commitSample_result (v : Sample) : (commitSample v s).result = s.result := rfl
@[simp] theorem commitSample_bt (v : Sample) : (commitSample v s).bt = s.bt := rfl
@[simp] theorem commitSample_fp (v : Sample) : (commitSample v s).fp = s.fp := rfl
@[simp] theorem commitSample_ae (v : Sample) : (commitSample v s).ae = s.ae := rfl
@[simp] theorem commitSample_smpStatus (v : Sample) : (commitSample v s).smpStatus = true := rfl
@[simp] theorem commitSample_smp (v : Sample) : (commitSample v s).smp = v := rfl
@[simp] theorem commitSample_pbuf (v : Sample) : (commitSample v s).pbuf = s.pbuf := rfl
@[simp] theorem commitSample_img (v : Sample) : (commitSample v s).img = s.img := rfl
@[simp] theorem commitSample_trace (v : Sample) : (commitSample v s).trace = s.trace := rfl
@[simp] theorem commitSample_seq (v : Sample) :
    (commitSample v s).seq = { s.seq with phase := .ending (.succeed false) } := rfl
@[simp] theorem commitSample_epoch (v : Sample) : (commitSample v s).epoch = s.epoch := rfl
@[simp] theorem commitSample_moves (v : Sample) : (commitSample v s).moves = s.moves := rfl
@[simp] theorem commitSample_env (v : Sample) : (commitSample v s).env = s.env := rfl

@[simp] theorem acceptCommand_cfg (d : Descriptor) : (acceptCommand d s).cfg = s.cfg := rfl
@[simp] theorem acceptCommand_cmdr (d : Descriptor) : (acceptCommand d s).cmdr = d := rfl
@[simp] theorem acceptCommand_busy (d : Descriptor) : (acceptCommand d s).busy = true := rfl
@[simp] theorem acceptCommand_result (d : Descriptor) :
    (acceptCommand d s).result = { s.result with valid := false } := rfl
@[simp] theorem acceptCommand_bt (d : Descriptor) : (acceptCommand d s).bt = s.bt := rfl
@[simp] theorem acceptCommand_fp (d : Descriptor) : (acceptCommand d s).fp = s.fp := rfl
@[simp] theorem acceptCommand_ae (d : Descriptor) : (acceptCommand d s).ae = s.ae := rfl
@[simp] theorem acceptCommand_smpStatus (d : Descriptor) : (acceptCommand d s).smpStatus = s.smpStatus := rfl
@[simp] theorem acceptCommand_smp (d : Descriptor) : (acceptCommand d s).smp = s.smp := rfl
@[simp] theorem acceptCommand_pbuf (d : Descriptor) : (acceptCommand d s).pbuf = s.pbuf := rfl
@[simp] theorem acceptCommand_img (d : Descriptor) : (acceptCommand d s).img = s.img := rfl
@[simp] theorem acceptCommand_trace (d : Descriptor) : (acceptCommand d s).trace = s.trace := rfl
@[simp] theorem acceptCommand_seq (d : Descriptor) :
    (acceptCommand d s).seq = { s.seq with phase := .accepted } := rfl
@[simp] theorem acceptCommand_epoch (d : Descriptor) : (acceptCommand d s).epoch = s.epoch := rfl
@[simp] theorem acceptCommand_moves (d : Descriptor) : (acceptCommand d s).moves = s.moves := rfl
@[simp] theorem acceptCommand_env (d : Descriptor) : (acceptCommand d s).env = s.env := rfl

@[simp] theorem stopComplete_cfg : (stopComplete s).cfg = s.cfg := rfl
@[simp] theorem stopComplete_cmdr : (stopComplete s).cmdr = s.cmdr := rfl
@[simp] theorem stopComplete_busy : (stopComplete s).busy = s.busy := rfl
@[simp] theorem stopComplete_result : (stopComplete s).result = s.result := rfl
@[simp] theorem stopComplete_bt : (stopComplete s).bt = stopCompleteFlags s.bt := rfl
@[simp] theorem stopComplete_fp : (stopComplete s).fp = s.fp := rfl
@[simp] theorem stopComplete_ae : (stopComplete s).ae = s.ae := rfl
@[simp] theorem stopComplete_smpStatus : (stopComplete s).smpStatus = s.smpStatus := rfl
@[simp] theorem stopComplete_smp : (stopComplete s).smp = s.smp := rfl
@[simp] theorem stopComplete_pbuf : (stopComplete s).pbuf = s.pbuf := rfl
@[simp] theorem stopComplete_img : (stopComplete s).img = s.img := rfl
@[simp] theorem stopComplete_trace : (stopComplete s).trace = s.trace := rfl
@[simp] theorem stopComplete_seq : (stopComplete s).seq = s.seq := rfl
@[simp] theorem stopComplete_epoch : (stopComplete s).epoch = s.epoch := rfl
@[simp] theorem stopComplete_moves : (stopComplete s).moves = s.moves := rfl
@[simp] theorem stopComplete_env : (stopComplete s).env = s.env := rfl

@[simp] theorem setBusy_cfg (v : Bool) : (setBusy v s).cfg = s.cfg := rfl
@[simp] theorem setBusy_cmdr (v : Bool) : (setBusy v s).cmdr = s.cmdr := rfl
@[simp] theorem setBusy_busy (v : Bool) : (setBusy v s).busy = s.busy := rfl
@[simp] theorem setBusy_result (v : Bool) : (setBusy v s).result = s.result := rfl
@[simp] theorem setBusy_bt (v : Bool) : (setBusy v s).bt = { s.bt with bb := v } := rfl
@[simp] theorem setBusy_fp (v : Bool) : (setBusy v s).fp = s.fp := rfl
@[simp] theorem setBusy_ae (v : Bool) : (setBusy v s).ae = s.ae := rfl
@[simp] theorem setBusy_smpStatus (v : Bool) : (setBusy v s).smpStatus = s.smpStatus := rfl
@[simp] theorem setBusy_smp (v : Bool) : (setBusy v s).smp = s.smp := rfl
@[simp] theorem setBusy_pbuf (v : Bool) : (setBusy v s).pbuf = s.pbuf := rfl
@[simp] theorem setBusy_img (v : Bool) : (setBusy v s).img = s.img := rfl
@[simp] theorem setBusy_trace (v : Bool) : (setBusy v s).trace = s.trace := rfl
@[simp] theorem setBusy_seq (v : Bool) : (setBusy v s).seq = s.seq := rfl
@[simp] theorem setBusy_epoch (v : Bool) : (setBusy v s).epoch = s.epoch := rfl
@[simp] theorem setBusy_moves (v : Bool) : (setBusy v s).moves = s.moves := rfl
@[simp] theorem setBusy_env (v : Bool) : (setBusy v s).env = s.env := rfl

end Sys2Proof.Machine
end

