-- ==== Sys2Proof/Laws/Ops.lean ====
section
/-! SUPPORT. What each shared operation can do, said once: the answers of a bus primitive, one step of a transaction
procedure, and a caller inside one. -/

namespace Sys2Proof.Machine

/-! ### Parts of the state -/

/-- Only the bus registers, the sequencer's phase and buffers, TRACE (which grew) and ENV may differ. -/
structure OnlyBus (s t : State) : Prop where
  cfg : t.cfg = s.cfg
  cmdr : t.cmdr = s.cmdr
  busy : t.busy = s.busy
  result : t.result = s.result
  fp : t.fp = s.fp
  ae : t.ae = s.ae
  smpStatus : t.smpStatus = s.smpStatus
  smp : t.smp = s.smp
  pbuf : t.pbuf = s.pbuf
  img : t.img = s.img
  epoch : t.epoch = s.epoch
  moves : t.moves = s.moves
  imgVerify : t.seq.imgVerify = s.seq.imgVerify
  trace : ∃ es, t.trace = s.trace ++ es

theorem OnlyBus.refl (s : State) : OnlyBus s s :=
  ⟨rfl, rfl, rfl, rfl, rfl, rfl, rfl, rfl, rfl, rfl, rfl, rfl, rfl, [], by simp⟩

theorem OnlyBus.trans {s t u : State} (h : OnlyBus s t) (k : OnlyBus t u) : OnlyBus s u := by
  obtain ⟨es, he⟩ := h.trace
  obtain ⟨fs, hf⟩ := k.trace
  exact ⟨k.cfg.trans h.cfg, k.cmdr.trans h.cmdr, k.busy.trans h.busy, k.result.trans h.result, k.fp.trans h.fp,
    k.ae.trans h.ae, k.smpStatus.trans h.smpStatus, k.smp.trans h.smp, k.pbuf.trans h.pbuf, k.img.trans h.img,
    k.epoch.trans h.epoch, k.moves.trans h.moves, k.imgVerify.trans h.imgVerify,
    es ++ fs, by rw [hf, he, List.append_assoc]⟩

theorem OnlyBus.goto (s : State) (p : Phase) : OnlyBus s (s.goto p) :=
  ⟨rfl, rfl, rfl, rfl, rfl, rfl, rfl, rfl, rfl, rfl, rfl, rfl, rfl, [], by simp⟩

theorem OnlyBus.beginWrite (s : State) (sa : BitVec 7) (reg : Byte) (data : List Byte) (here : XferAt → Phase) :
    OnlyBus s (s.beginWrite sa reg data here) :=
  ⟨rfl, rfl, rfl, rfl, rfl, rfl, rfl, rfl, rfl, rfl, rfl, rfl, rfl, [], by simp⟩

theorem OnlyBus.beginRead (s : State) (sa : BitVec 7) (reg : Byte) (n : BitVec 16) (here : XferAt → Phase) :
    OnlyBus s (s.beginRead sa reg n here) :=
  ⟨rfl, rfl, rfl, rfl, rfl, rfl, rfl, rfl, rfl, rfl, rfl, rfl, rfl, [], by simp⟩

theorem OnlyBus.writeBack (s : State) (sa : BitVec 7) (reg : Byte) (start width : Nat) (value : Byte) (buf : List Byte)
    (here : XferAt → Phase) : OnlyBus s (s.writeBack sa reg start width value buf here) :=
  ⟨rfl, rfl, rfl, rfl, rfl, rfl, rfl, rfl, rfl, rfl, rfl, rfl, rfl, [], (List.append_nil _).symm⟩

/-- The bus registers that neither a transaction nor ENV changes: the clock registers, INITD, QEN, IRS and TMPB. -/
structure SameControl (b c : BusRegs) : Prop where
  clkpsc : c.clkpsc = b.clkpsc
  clkl : c.clkl = b.clkl
  clkh : c.clkh = b.clkh
  initd : c.initd = b.initd
  qen : c.qen = b.qen
  irs : c.irs = b.irs
  tmpb : c.tmpb = b.tmpb

theorem SameControl.refl (b : BusRegs) : SameControl b b := ⟨rfl, rfl, rfl, rfl, rfl, rfl, rfl⟩

theorem SameControl.trans {b c d : BusRegs} (h : SameControl b c) (k : SameControl c d) : SameControl b d :=
  ⟨k.clkpsc.trans h.clkpsc, k.clkl.trans h.clkl, k.clkh.trans h.clkh, k.initd.trans h.initd, k.qen.trans h.qen,
    k.irs.trans h.irs, k.tmpb.trans h.tmpb⟩

theorem SameControl.writeAttempt (b : BusRegs) : SameControl b (writeAttempt b) := ⟨rfl, rfl, rfl, rfl, rfl, rfl, rfl⟩

theorem SameControl.readAttempt (n : BitVec 16) (b : BusRegs) : SameControl b (readAttempt n b) :=
  ⟨rfl, rfl, rfl, rfl, rfl, rfl, rfl⟩

theorem SameControl.stopModes (b : BusRegs) : SameControl b (stopModes b) := ⟨rfl, rfl, rfl, rfl, rfl, rfl, rfl⟩

theorem SameControl.noteAnswer (a : Answer) (b : BusRegs) : SameControl b (noteAnswer a b) := by
  cases a <;> exact ⟨rfl, rfl, rfl, rfl, rfl, rfl, rfl⟩

theorem SameControl.startModes (d : Dir) (b : BusRegs) : SameControl b (startModes d b) :=
  ⟨rfl, rfl, rfl, rfl, rfl, rfl, rfl⟩

theorem SameControl.countTx (b : BusRegs) : SameControl b (countTx b) := by
  unfold Machine.countTx; split <;> exact ⟨rfl, rfl, rfl, rfl, rfl, rfl, rfl⟩

/-! ### The environment with its answers ready -/

@[simp] theorem Env.askAddr_ready {sa : BitVec 7} {dir : Dir} {e : Env} {a : Answer} {rest : List Answer}
    (h : e.addr = a :: rest) :
    e.askAddr sa dir = (a, { e with addr := rest, dev := e.dev.map fun r => r.addressed dir a }) := by
  simp [Env.askAddr, h]

@[simp] theorem Env.askTx_ready {d : DevTable} {b : Byte} {e : Env} {a : Answer} {rest : List Answer}
    (h : e.tx = a :: rest) :
    e.askTx d b = (a, { e with tx := rest, dev := e.dev.map fun r => r.transmitted d b a }) := by
  simp [Env.askTx, h]

@[simp] theorem Env.askRx_ready {d : DevTable} {e : Env} {b : Byte} {rest : List Byte} (h : e.rx = b :: rest) :
    e.askRx d = (b, { e with rx := rest, dev := e.dev.map fun r => (r.received d).2 }) := by
  simp [Env.askRx, h]

@[simp] theorem Env.askReady_ready {e : Env} {v : Bool} {rest : List Bool} (h : e.ready = v :: rest) :
    e.askReady = (v, { e with ready := rest }) := by
  simp [Env.askReady, h]

/-! ### Bus primitives -/

theorem State.start_onlyBus (s : State) (dir : Dir) : OnlyBus s (s.start dir).2 :=
  ⟨rfl, rfl, rfl, rfl, rfl, rfl, rfl, rfl, rfl, rfl, rfl, rfl, rfl, _, rfl⟩

theorem State.tx_onlyBus (s : State) (b : Byte) : OnlyBus s (s.tx b).2 :=
  ⟨rfl, rfl, rfl, rfl, rfl, rfl, rfl, rfl, rfl, rfl, rfl, rfl, rfl, _, rfl⟩

theorem State.rx_onlyBus (s : State) : OnlyBus s s.rx :=
  ⟨rfl, rfl, rfl, rfl, rfl, rfl, rfl, rfl, rfl, rfl, rfl, rfl, rfl, _, rfl⟩

theorem State.pollReady_onlyBus (s : State) : OnlyBus s s.pollReady.2 :=
  ⟨rfl, rfl, rfl, rfl, rfl, rfl, rfl, rfl, rfl, rfl, rfl, rfl, rfl, _, rfl⟩

theorem State.stop_onlyBus (s : State) : OnlyBus s s.stop :=
  ⟨rfl, rfl, rfl, rfl, rfl, rfl, rfl, rfl, rfl, rfl, rfl, rfl, rfl, _, rfl⟩

theorem State.timeoutRecovery_onlyBus (s : State) : OnlyBus s s.timeoutRecovery :=
  ⟨rfl, rfl, rfl, rfl, rfl, rfl, rfl, rfl, rfl, rfl, rfl, rfl, rfl, _, by
    rw [State.timeoutRecovery_trace, List.append_assoc, List.append_assoc]⟩

/-- What `Start` comes to. -/
theorem State.start_eq {s t : State} {dir : Dir} {a : Answer} (h : s.start dir = (a, t)) :
    OnlyBus s t ∧ SameControl s.bt t.bt ∧ t.seq = s.seq ∧ t.bt = noteAnswer a (startModes dir s.bt) ∧
      t.trace = s.trace ++ [.start, .addr s.bt.sa dir a] := by
  obtain rfl : (s.start dir).2 = t := congrArg Prod.snd h
  obtain rfl : (s.env.askAddr s.bt.sa dir).1 = a := congrArg Prod.fst h
  exact ⟨s.start_onlyBus dir, (SameControl.startModes dir s.bt).trans (SameControl.noteAnswer _ _), rfl, rfl, rfl⟩

/-- What `Tx` comes to. -/
theorem State.tx_eq {s t : State} {b : Byte} {a : Answer} (h : s.tx b = (a, t)) :
    OnlyBus s t ∧ SameControl s.bt t.bt ∧ t.seq = s.seq ∧ t.bt = noteAnswer a (countTx s.bt) ∧
      t.trace = s.trace ++ [.tx b a] := by
  obtain rfl : (s.tx b).2 = t := congrArg Prod.snd h
  obtain rfl : (s.env.askTx s.cfg.dev b).1 = a := congrArg Prod.fst h
  exact ⟨s.tx_onlyBus b, (SameControl.countTx s.bt).trans (SameControl.noteAnswer _ _), rfl, rfl, rfl⟩

/-- What `Tx` of a payload byte comes to, once it has been taken from the buffer. -/
theorem State.txRest_eq {s t : State} {rest : List Byte} {b : Byte} {a : Answer}
    (h : State.tx { s with seq := { s.seq with txbuf := rest } } b = (a, t)) : OnlyBus s t ∧ SameControl s.bt t.bt := by
  refine ⟨OnlyBus.trans (t := { s with seq := { s.seq with txbuf := rest } }) ?_ (State.tx_eq h).1,
    (State.tx_eq h).2.1⟩
  exact ⟨rfl, rfl, rfl, rfl, rfl, rfl, rfl, rfl, rfl, rfl, rfl, rfl, rfl, [], (List.append_nil _).symm⟩

theorem OnlyBus.dropTrx {s t : State} (h : OnlyBus s t) : OnlyBus s t.dropTrx :=
  h.trans ⟨rfl, rfl, rfl, rfl, rfl, rfl, rfl, rfl, rfl, rfl, rfl, rfl, rfl, [], (List.append_nil _).symm⟩

theorem SameControl.dropTrx {b : BusRegs} {t : State} (h : SameControl b t.bt) : SameControl b t.dropTrx.bt :=
  h.trans ⟨rfl, rfl, rfl, rfl, rfl, rfl, rfl⟩

/-- What `PollReady` comes to. -/
theorem State.pollReady_eq {s t : State} {v : Bool} (h : s.pollReady = (v, t)) :
    OnlyBus s t ∧ SameControl s.bt t.bt ∧ t.seq = s.seq ∧ t.bt = { s.bt with ardy := s.bt.ardy || v } ∧
      t.trace = s.trace ++ [.ready v] := by
  obtain rfl : s.pollReady.2 = t := congrArg Prod.snd h
  obtain rfl : s.env.askReady.1 = v := congrArg Prod.fst h
  exact ⟨s.pollReady_onlyBus, ⟨rfl, rfl, rfl, rfl, rfl, rfl, rfl⟩, rfl, rfl, rfl⟩

/-! ### One step of a transaction procedure -/

/-- The three things a procedure may answer with: what it received, or one of its three codes at the places where each
can happen. -/
def replyFits (s : State) (x : XferAt) : Reply → Prop
  | .ok buf => x = .w .data ∧ s.seq.txbuf = [] ∧ buf = [] ∨ x = .r .stop2 ∧ buf = s.seq.rbuf
  | .fail c => c = .busNack ∨ c = .arbLost ∨ c = .busTimeout ∧ x = .r .timeout

/-- The procedure of a place: write or read. -/
def XferAt.isRead : XferAt → Bool
  | .w _ => false
  | .r _ => true

/-- A procedure is held only at a Start, and there exactly while STP = 1 or BB = 1 (R143). -/
theorem xferStep_hold_iff (s : State) (x : XferAt) :
    xferStep s x = .hold ↔ x.atStart = true ∧ busHeld s.bt = true := by
  constructor
  · intro h
    rcases x with x | x <;> cases x <;> simp only [xferStep, writeStep, readStep] at h <;>
      (repeat' split at h) <;> simp_all [XferAt.atStart]
  · rintro ⟨h, hb⟩
    rcases x with x | x <;> cases x <;> simp_all [XferAt.atStart, xferStep, writeStep, readStep]

/-- A procedure that goes on stays in its own places, and changes only what a transaction may. -/
theorem xferStep_go {s t : State} {x y : XferAt} (h : xferStep s x = .go y t) :
    y.isRead = x.isRead ∧ OnlyBus s t ∧ SameControl s.bt t.bt ∧ x ≠ .r .timeout := by
  rcases x with x | x <;> cases x <;> simp only [xferStep, writeStep, readStep] at h <;>
    (repeat' split at h) <;> simp only [XferNext.go.injEq, reduceCtorEq] at h <;> obtain ⟨rfl, rfl⟩ := h <;>
    refine ⟨rfl, ?_, ?_, by simp⟩
  all_goals first
    | exact (State.start_eq ‹_›).1
    | exact (State.start_eq ‹_›).2.1
    | exact (State.tx_eq ‹_›).1
    | exact (State.tx_eq ‹_›).2.1
    | exact (State.pollReady_eq ‹_›).1
    | exact (State.pollReady_eq ‹_›).2.1
    | exact s.rx_onlyBus
    | exact ⟨rfl, rfl, rfl, rfl, rfl, rfl, rfl⟩
    | exact ⟨rfl, rfl, rfl, rfl, rfl, rfl, rfl, rfl, rfl, rfl, rfl, rfl, rfl, _, rfl⟩
    | exact (State.txRest_eq ‹_›).1
    | exact (State.txRest_eq ‹_›).2

/-- A procedure that returns has changed only what a transaction may, and answers with one of its replies. -/
theorem xferStep_done {s t : State} {x : XferAt} {r : Reply} (h : xferStep s x = .done r t) :
    OnlyBus s t ∧ replyFits s x r ∧ (x ≠ .r .timeout → SameControl s.bt t.bt) := by
  rcases x with x | x <;> cases x <;> simp only [xferStep, writeStep, readStep] at h <;>
    (repeat' split at h) <;> simp only [XferNext.done.injEq, reduceCtorEq] at h <;> obtain ⟨rfl, rfl⟩ := h <;>
    refine ⟨?_, by simp [replyFits, *], fun hx => ?_⟩
  all_goals first
    | exact (State.start_eq ‹_›).1
    | exact (State.start_eq ‹_›).2.1
    | exact (State.tx_eq ‹_›).1
    | exact (State.tx_eq ‹_›).2.1
    | exact ⟨rfl, rfl, rfl, rfl, rfl, rfl, rfl⟩
    | exact ⟨rfl, rfl, rfl, rfl, rfl, rfl, rfl, rfl, rfl, rfl, rfl, rfl, rfl, _, rfl⟩
    | exact s.timeoutRecovery_onlyBus
    | exact absurd rfl hx
    | exact (State.txRest_eq ‹_›).1
    | exact (State.txRest_eq ‹_›).2
    | exact (State.start_eq ‹_›).1.dropTrx
    | exact (State.start_eq ‹_›).2.1.dropTrx
    | exact (State.tx_eq ‹_›).1.dropTrx
    | exact (State.tx_eq ‹_›).2.1.dropTrx
    | exact (State.txRest_eq ‹_›).1.dropTrx
    | exact (State.txRest_eq ‹_›).2.dropTrx

/-- One step of a caller inside a procedure: held, on to another place of the same procedure, or the caller's use of
the procedure's reply. -/
theorem State.xfer_cases (s : State) (x : XferAt) (here : XferAt → Phase) (reply : Reply → State → State) :
    (s.xfer x here reply = s ∧ x.atStart = true ∧ busHeld s.bt = true) ∨
    (∃ y t, xferStep s x = .go y t ∧ s.xfer x here reply = t.goto (here y)) ∨
    (∃ r t, xferStep s x = .done r t ∧ s.xfer x here reply = reply r t) := by
  unfold State.xfer
  cases h : xferStep s x with
  | hold => exact .inl ⟨rfl, (xferStep_hold_iff s x).1 h⟩
  | go y t => exact .inr (.inl ⟨y, t, rfl, rfl⟩)
  | done r t => exact .inr (.inr ⟨r, t, rfl, rfl⟩)

/-! ### The procedures of several transactions -/

/-- The parts of the state that `UploadBlock` may change beside the bus: the FirmwareProgrammer registers without the
record cursor. -/
structure OnlyUpload (s t : State) : Prop where
  bus : OnlyBus { s with fp := t.fp } t
  ipos : t.fp.ipos = s.fp.ipos
  iend : t.fp.iend = s.fp.iend
  control : SameControl s.bt t.bt

/-- The state in which a procedure leaves its caller. -/
def ProcNext.state : ProcNext → State
  | .run s => s
  | .ret _ s => s

theorem OnlyUpload.of_bus {s t : State} (h : OnlyBus s t) (c : SameControl s.bt t.bt) : OnlyUpload s t :=
  ⟨by rw [h.fp]; exact h, by rw [h.fp], by rw [h.fp], c⟩

theorem OnlyUpload.trans {s t u : State} (h : OnlyUpload s t) (k : OnlyUpload t u) : OnlyUpload s u := by
  refine ⟨?_, k.ipos.trans h.ipos, k.iend.trans h.iend, h.control.trans k.control⟩
  have hb := h.bus
  have kb := k.bus
  obtain ⟨es, he⟩ := hb.trace
  obtain ⟨fs, hf⟩ := kb.trace
  exact ⟨kb.cfg.trans hb.cfg, kb.cmdr.trans hb.cmdr, kb.busy.trans hb.busy, kb.result.trans hb.result, rfl,
    kb.ae.trans hb.ae, kb.smpStatus.trans hb.smpStatus, kb.smp.trans hb.smp, kb.pbuf.trans hb.pbuf,
    kb.img.trans hb.img, kb.epoch.trans hb.epoch, kb.moves.trans hb.moves, kb.imgVerify.trans hb.imgVerify,
    es ++ fs, by rw [hf]; simp only []; rw [he, List.append_assoc]⟩

theorem OnlyUpload.fp (s : State) (p : ProgRegs) (hi : p.ipos = s.fp.ipos) (he : p.iend = s.fp.iend) :
    OnlyUpload s { s with fp := p } :=
  ⟨OnlyBus.refl _, hi, he, SameControl.refl _⟩

theorem OnlyUpload.beginWrite (s : State) (sa : BitVec 7) (reg : Byte) (data : List Byte) (here : XferAt → Phase) :
    OnlyUpload s (s.beginWrite sa reg data here) :=
  .of_bus (OnlyBus.beginWrite s sa reg data here) ⟨rfl, rfl, rfl, rfl, rfl, rfl, rfl⟩

theorem OnlyUpload.beginRead (s : State) (sa : BitVec 7) (reg : Byte) (n : BitVec 16) (here : XferAt → Phase) :
    OnlyUpload s (s.beginRead sa reg n here) :=
  .of_bus (OnlyBus.beginRead s sa reg n here) ⟨rfl, rfl, rfl, rfl, rfl, rfl, rfl⟩

theorem blockHead_onlyUpload (here : Site → XferAt → Phase) (s : State) : OnlyUpload s (blockHead here s).state := by
  unfold blockHead
  split
  · exact .of_bus (OnlyBus.refl s) (SameControl.refl _)
  · exact .trans (t := { s with fp := { s.fp with
      chunklen := BitVec.ofNat 9 (chunkLen s.cfg.chunk s.fp.remain.toNat s.fp.curoff.toNat) } })
      (.fp s _ rfl rfl) (.beginWrite _ _ _ _ _)

theorem blockEnter_onlyUpload (here : Site → XferAt → Phase) (src : BitVec 17) (size : BitVec 16) (bank : BitVec 5)
    (off : Byte) (verify : Bool) (s : State) : OnlyUpload s (blockEnter here src size bank off verify s).state :=
  .trans (t := { s with fp := { s.fp with
    curbank := bank, curoff := off, remain := size, srcptr := src, verify := verify } })
    (.fp s _ rfl rfl) (blockHead_onlyUpload here _)

theorem blockNext_onlyUpload (here : Site → XferAt → Phase) (s : State) : OnlyUpload s (blockNext here s).state :=
  (OnlyUpload.fp s (chunkDone s.fp) rfl rfl).trans (blockHead_onlyUpload here _)

/-- A reply to `UploadBlock` changes only what an upload may. -/
theorem blockReply_onlyUpload (here : Site → XferAt → Phase) (k : Site) (r : Reply) (s : State) :
    OnlyUpload s (blockReply here k r s).state := by
  have e : OnlyUpload s s := .of_bus (OnlyBus.refl s) (SameControl.refl _)
  cases r with
  | fail c => exact e
  | ok buf =>
    cases k <;> simp only [blockReply] <;> (try split) <;> first
      | exact e
      | exact OnlyUpload.beginWrite _ _ _ _ _
      | exact OnlyUpload.beginRead _ _ _ _ _
      | exact blockNext_onlyUpload _ _
      | exact .trans (t := { s with fp := { s.fp with vbuf := storeVbuf buf s.fp.vbuf } }) (.fp s _ rfl rfl)
          (blockNext_onlyUpload _ _)
      | exact OnlyUpload.fp s { s.fp with vbuf := storeVbuf buf s.fp.vbuf } rfl rfl

/-- The registers that `ReadSample` may change beside the bus: all of the AcquisitionEngine's but DEVSTAT, IDTRY, and
the averaging registers; and TMPB of the bus registers. -/
structure OnlySample (s t : State) : Prop where
  bus : OnlyBus { s with ae := t.ae } t
  devstat : t.ae.devstat = s.ae.devstat
  idtry : t.ae.idtry = s.ae.idtry
  avgn : t.ae.avgn = s.ae.avgn
  avgi : t.ae.avgi = s.ae.avgi
  acc : t.ae.acc = s.ae.acc
  control : sameController s t

/-- A reply to `ReadSample` changes only what a sample read may. -/
theorem sampleReply_onlySample (k : Site) (r : Reply) (s : State) : OnlySample s (sampleReply k r s).state := by
  cases r with
  | fail c => exact ⟨OnlyBus.refl _, rfl, rfl, rfl, rfl, rfl, rfl, rfl, rfl, rfl, rfl, rfl⟩
  | ok buf =>
    cases k <;> simp only [sampleReply] <;> (try split) <;>
      exact ⟨⟨rfl, rfl, rfl, rfl, rfl, rfl, rfl, rfl, rfl, rfl, rfl, rfl, rfl, [], (List.append_nil _).symm⟩,
        rfl, rfl, rfl, rfl, rfl, rfl, rfl, rfl, rfl, rfl, rfl⟩

/-! ### The numbers of the sample path (R11) -/

theorem numEval_numAdd {α : Type} {m : NumModel α} (hm : m.Lawful) (a b : Num) :
    numEval m (numAdd a b) = m.add (numEval m a) (numEval m b) := by
  unfold numAdd
  split
  · subst a; exact (hm.add_zero_left _).symm
  · rfl

theorem numEval_numDiv {α : Type} {m : NumModel α} (hm : m.Lawful) (a b : Num) :
    numEval m (numDiv a b) = m.div (numEval m a) (numEval m b) := by
  unfold numDiv
  split
  · subst b; exact (hm.div_one_right _).symm
  · rfl

/-- Applying the laws of R11 to a term changes its value in no lawful instantiation. -/
theorem numEval_reduceNum {α : Type} {m : NumModel α} (hm : m.Lawful) (n : Num) :
    numEval m (reduceNum n) = numEval m n := by
  induction n <;> simp_all [reduceNum, numEval, numEval_numAdd hm, numEval_numDiv hm]

/-- The staged sample is the physical sample, in every lawful instantiation (R244 to R246). -/
theorem stageSample_holdsPhysical {α : Type} {m : NumModel α} (hm : m.Lawful) (c : Cfg) (r : RawFields)
    (rawt : BitVec 16) : holdsPhysical m c r rawt (stageSample c r rawt) := by
  simp only [holdsPhysical, stageSample, numEval_numAdd hm, numEval_numDiv hm, numEval, linearAccel, angularRate, norm3,
    tempF, tempOffset, ofRaw, sext16, and_self]

end Sys2Proof.Machine
end

