-- ==== Sys2Proof/Laws/Exec.lean ====
section
/-! SUPPORT. What one step of an instruction can be, said once for all instructions: six kinds of step, one per kind of
command phase. -/

namespace Sys2Proof.Machine

/-! ### The step of an instruction by its phase -/

/-- The first step of an accepted command: its checks, and its entry (`40_` to `43_`). A record has none. -/
def acceptStep (i : Instr) (s : State) : State :=
  match i with
  | .init => s.busReset.busInit.goto (.ending (.succeed false))
  | .wrb sa reg cnt =>
    if s.cfg.pbufSize < cnt.toNat then s.fail .illegalOperand .ok
    else s.ifInitd fun s => s.beginWrite sa reg (s.pbufBytes cnt.toNat) (.cmd .wrb)
  | .rdb sa reg cnt =>
    if cnt = 0 ∨ s.cfg.pbufSize < cnt.toNat then s.fail .illegalOperand .ok
    else s.ifInitd fun s => s.beginRead sa reg cnt (.cmd .rdb)
  | .rdbit sa reg _ => s.ifInitd fun s => s.beginRead sa reg 1 (.cmd .rdbit)
  | .wrbit sa reg bit _ =>
    if !fieldLegal bit 1 then s.fail .illegalOperand .ok
    else s.ifInitd fun s => s.beginRead sa reg 1 (.cmd .rmwRead)
  | .wrbf sa reg start width _ =>
    if !fieldLegal start width then s.fail .illegalOperand .ok
    else s.ifInitd fun s => s.beginRead sa reg 1 (.cmd .rmwRead)
  | .dwb reg value => s.ifInitd fun s => s.beginDevWriteByte reg value (.cmd .devWrite)
  | .dwbf reg start width _ =>
    if !fieldLegal start width then s.fail .illegalOperand .ok
    else s.ifInitd fun t => t.beginRead s.cfg.dev.devaddr reg 1 (.cmd .rmwRead)
  | .selbank bank pf ub => s.ifInitd fun s => s.beginSelectBank bank pf ub (.cmd .devWrite)
  | .setaddr offs => s.ifInitd fun s => s.beginSetStartAddress offs (.cmd .devWrite)
  | .upblk v bank offs size src =>
    if !insideImg s.cfg src.toNat size.toNat then s.fail .illegalOperand .ok
    else if !insideDmem bank.toNat offs.toNat size.toNat then s.fail .illegalOperand .ok
    else s.ifInitd fun s =>
      (blockEnter .cmd (src.setWidth 17) size bank offs (v == 1) s).elim (endUpload .fwUploadFailed)
  | .upimg v len src =>
    if !insideImg s.cfg src.toNat len.toNat then s.fail .illegalOperand .ok
    else s.ifInitd (imageEnter src len (v == 1))
  | .setup => identityEnter s.busReset.busInit
  | .rdsmp => if s.ae.devstat ≠ .dmpReady then s.fail .notReady .ok else fifoWait s
  | .rdavg n =>
    if n = 0 then s.fail .illegalOperand .ok
    else if s.ae.devstat ≠ .dmpReady then s.fail .notReady .ok
    else averageEnter n s
  | .recData _ _ _ => s
  | .recSpcInten _ _ => s

/-- What a read-modify-write does with the reply of its read (R159). -/
def rmwReadReply (sa : BitVec 7) (reg : Byte) (start width : Nat) (value : Byte) (r : Reply) (s : State) : State :=
  match r with
  | .ok buf => s.writeBack sa reg start width value buf (.cmd .rmwWrite)
  | .fail c => s.goto (.ending (.fail c .ok))

/-- What a command does with the reply of the transaction at one of its call sites. -/
def cmdReply (c : Cfg) (i : Instr) (k : Site) (r : Reply) (s : State) : State :=
  match i with
  | .rdb _ _ _ =>
    match r with
    | .ok buf => (s.storePbuf buf).goto (.ending (.succeed false))
    | .fail c => s.goto (.ending (.fail c .ok))
  | .rdbit _ _ bit =>
    match r with
    | .ok buf =>
      { s with bt := { s.bt with tmpb := byteAt buf 0 } }.goto (.ending (.succeed (fieldBit (byteAt buf 0) bit.toNat)))
    | .fail c => s.goto (.ending (.fail c .ok))
  | .wrbit sa reg bit v => if k = .rmwRead then rmwReadReply sa reg bit.toNat 1 (v.setWidth 8) r s else endWith r s
  | .wrbf sa reg start width value =>
    if k = .rmwRead then rmwReadReply sa reg start.toNat width.toNat value r s else endWith r s
  | .dwbf reg start width value =>
    if k = .rmwRead then rmwReadReply c.dev.devaddr reg start.toNat width.toNat value r s else endWith r s
  | .upblk _ _ _ _ _ => (blockReply .cmd k r s).elim (endUpload .fwUploadFailed)
  | .setup => (identityReply r s).elim setupIdentified
  | .rdsmp => (sampleReply k r s).elim singleSampleEnd
  | .rdavg _ => (sampleReply k r s).elim averageSampleEnd
  | .init | .wrb _ _ _ | .dwb _ _ | .selbank _ _ _ | .setaddr _ | .upimg _ _ _ => endWith r s
  | .recData _ _ _ | .recSpcInten _ _ => endWith r s

/-- The step at the head of the record loop (R206). -/
def imageStep (i : Instr) (s : State) : State :=
  match i with
  | .recData bank offs data =>
    if 31 < bank.toNat ∨ !insideDmem bank.toNat offs.toNat data.length then
      s.goto (.imageDone (some .illegalOperand))
    else
      (blockEnter .record (s.fp.ipos + 3) (BitVec.ofNat 16 data.length) (bank.setWidth 5) offs s.seq.imgVerify
        s).elim (recordEnd (3 + data.length))
  | .recSpcInten _ _ => s.beginDevWriteByte s.cfg.dev.raIntEnable s.cfg.dev.intEnableValue (.record .intEnable)
  | .upimg _ _ _ | .setup => s.goto (.imageDone (imageReturn s))
  | .init | .wrb _ _ _ | .rdb _ _ _ | .rdbit _ _ _ | .wrbit _ _ _ _ | .wrbf _ _ _ _ _ => s
  | .dwb _ _ | .dwbf _ _ _ _ | .selbank _ _ _ | .setaddr _ | .upblk _ _ _ _ _ | .rdsmp | .rdavg _ => s

/-- What a record does with the reply of the transaction at one of its call sites. -/
def recReply (i : Instr) (k : Site) (r : Reply) (s : State) : State :=
  match i with
  | .recData _ _ data => (blockReply .record k r s).elim (recordEnd (3 + data.length))
  | .recSpcInten _ _ =>
    match r with
    | .ok _ => recordDone 4 s
    | .fail c => s.goto (.imageDone (some c))
  | .init | .wrb _ _ _ | .rdb _ _ _ | .rdbit _ _ _ | .wrbit _ _ _ _ | .wrbf _ _ _ _ _ => s
  | .dwb _ _ | .dwbf _ _ _ _ | .selbank _ _ _ | .setaddr _ | .upblk _ _ _ _ _ | .upimg _ _ _ => s
  | .setup | .rdsmp | .rdavg _ => s

/-- What a command does with the return value of `UploadImage` (R207, R232). -/
def imageDoneStep (i : Instr) (r : Option Code) (s : State) : State :=
  match i with
  | .setup => setupUploaded r s
  | .upimg _ _ _ => endUpload .fwUploadFailed r s
  | .init | .wrb _ _ _ | .rdb _ _ _ | .rdbit _ _ _ | .wrbit _ _ _ _ | .wrbf _ _ _ _ _ => s
  | .dwb _ _ | .dwbf _ _ _ _ | .selbank _ _ _ | .setaddr _ | .upblk _ _ _ _ _ | .rdsmp | .rdavg _ => s
  | .recData _ _ _ | .recSpcInten _ _ => s

theorem exec_accepted {i : Instr} {s : State} (hp : s.seq.phase = .accepted) (hi : i.isCommand = true) :
    exec i s = .next (acceptStep i s) := by
  cases i <;> simp only [exec, execInit, execWrb, execRdb, execRdbit, execWrbit, execWrbf, rmwCommand, execDwb,
    execDwbf, execSelbank, execSetaddr, devWriteCommand, execUpblk, execUpimg, execSetup, execRdsmp, execRdavg, hp,
    acceptStep] <;> (try (repeat' split) <;> rfl) <;> exact absurd hi (by simp [Instr.isCommand])

theorem State.xfer_congr {f g : Reply → State → State} (h : ∀ r t, f r t = g r t) (s : State) (x : XferAt)
    (here : XferAt → Phase) : s.xfer x here f = s.xfer x here g := by
  obtain rfl : f = g := funext fun r => funext fun t => h r t
  rfl

theorem exec_cmd {i : Instr} {s : State} {k : Site} {x : XferAt} (hp : s.seq.phase = .cmd k x)
    (hi : i.isCommand = true) (hk : ownsSite i k = true) :
    exec i s = .next (s.xfer x (.cmd k) (cmdReply s.cfg i k)) := by
  cases i <;> simp only [ownsSite, Instr.isCommand, Bool.false_eq_true, beq_iff_eq, Bool.or_eq_true] at hk hi <;>
    (try rcases hk with rfl | rfl) <;>
    simp only [exec, execWrb, execRdb, execRdbit, execWrbit, execWrbf, rmwCommand, execDwb, execDwbf, execSelbank,
      execSetaddr, devWriteCommand, execUpblk, execSetup, execRdsmp, execRdavg, hp] <;>
    (try simp only [hk, if_true]) <;>
    exact congrArg _ (State.xfer_congr (fun r _ => by cases r <;> rfl) _ _ _)

theorem exec_image {i : Instr} {s : State} (hp : s.seq.phase = .image) (hi : runsImage i = true ∨ i.isCommand = false) :
    exec i s = .next (imageStep i s) := by
  cases i <;> simp only [runsImage, Instr.isCommand, Bool.false_eq_true, Bool.true_eq_false, or_self] at hi <;>
    simp only [exec, execUpimg, execSetup, execRecData, execRecSpcInten, hp, imageStep]
  split <;> rfl

theorem exec_record {i : Instr} {s : State} {k : Site} {x : XferAt} (hp : s.seq.phase = .record k x)
    (hi : i.isCommand = false) (hk : ownsSite i k = true) :
    exec i s = .next (s.xfer x (.record k) (recReply i k)) := by
  cases i <;> simp only [Instr.isCommand, Bool.true_eq_false] at hi
  · simp only [ownsSite] at hk
    simp only [exec, execRecData, hp, hk, if_true]
    rfl
  · simp only [ownsSite, beq_iff_eq] at hk
    subst hk
    simp only [exec, execRecSpcInten, hp]
    exact congrArg _ (State.xfer_congr (fun r _ => by cases r <;> rfl) _ _ _)

theorem exec_imageDone {i : Instr} {s : State} {r : Option Code} (hp : s.seq.phase = .imageDone r)
    (hi : runsImage i = true) : exec i s = .next (imageDoneStep i r s) := by
  cases i <;> simp only [runsImage, Bool.false_eq_true] at hi <;>
    simp only [exec, execUpimg, execSetup, hp, imageDoneStep]

theorem exec_ending {i : Instr} {s : State} {e : Ending} (hp : s.seq.phase = .ending e) (hi : i.isCommand = true) :
    exec i s = .next (s.finish e) := by
  cases i <;> simp only [Instr.isCommand, Bool.false_eq_true] at hi <;>
    simp only [exec, execInit, execWrb, execRdb, execRdbit, execWrbit, execWrbf, rmwCommand, execDwb, execDwbf,
      execSelbank, execSetaddr, devWriteCommand, execUpblk, execUpimg, execSetup, execRdsmp, execRdavg, hp]

/-- An instruction that has a next state stands in one of six kinds of phase, and the next state is that step's. -/
theorem exec_cases {i : Instr} {s t : State} (h : exec i s = .next t) :
    (s.seq.phase = .accepted ∧ i.isCommand = true ∧ t = acceptStep i s) ∨
    (∃ k x, s.seq.phase = .cmd k x ∧ i.isCommand = true ∧ ownsSite i k = true ∧
      t = s.xfer x (.cmd k) (cmdReply s.cfg i k)) ∨
    (s.seq.phase = .image ∧ (runsImage i = true ∨ i.isCommand = false) ∧ t = imageStep i s) ∨
    (∃ k x, s.seq.phase = .record k x ∧ i.isCommand = false ∧ ownsSite i k = true ∧
      t = s.xfer x (.record k) (recReply i k)) ∨
    (∃ r, s.seq.phase = .imageDone r ∧ runsImage i = true ∧ t = imageDoneStep i r s) ∨
    (∃ e, s.seq.phase = .ending e ∧ i.isCommand = true ∧ t = s.finish e) := by
  cases hp : s.seq.phase with
  | idle =>
    cases i <;> simp only [exec, execInit, execWrb, execRdb, execRdbit, execWrbit, execWrbf, rmwCommand, execDwb,
      execDwbf, execSelbank, execSetaddr, devWriteCommand, execUpblk, execUpimg, execSetup, execRdsmp, execRdavg,
      execRecData, execRecSpcInten, hp, reduceCtorEq] at h
  | accepted =>
    by_cases hi : i.isCommand = true
    · rw [exec_accepted hp hi] at h
      cases h
      exact .inl ⟨rfl, hi, rfl⟩
    · cases i <;> simp only [Instr.isCommand, not_true_eq_false] at hi <;>
        simp only [exec, execRecData, execRecSpcInten, hp, reduceCtorEq] at h
  | cmd k x =>
    by_cases hi : i.isCommand = true
    · by_cases hk : ownsSite i k = true
      · rw [exec_cmd hp hi hk] at h
        cases h
        exact .inr (.inl ⟨k, x, rfl, hi, hk, rfl⟩)
      · cases i <;> cases k <;> first
          | exact absurd rfl hk
          | simp only [exec, execInit, execWrb, execRdb, execRdbit, execWrbit, execWrbf, rmwCommand, execDwb,
              execDwbf, execSelbank, execSetaddr, devWriteCommand, execUpblk, execUpimg, execSetup, execRdsmp,
              execRdavg, execRecData, execRecSpcInten, hp, Site.ofUpload, Site.ofSample, Bool.false_eq_true, if_false,
              reduceCtorEq] at h
    · cases i <;> simp only [Instr.isCommand, not_true_eq_false] at hi <;>
        simp only [exec, execRecData, execRecSpcInten, hp, reduceCtorEq] at h
  | image =>
    by_cases hi : runsImage i = true ∨ i.isCommand = false
    · rw [exec_image hp hi] at h
      cases h
      exact .inr (.inr (.inl ⟨rfl, hi, rfl⟩))
    · cases i <;> simp only [runsImage, Instr.isCommand, Bool.true_eq_false, or_false, or_true, not_true_eq_false]
        at hi <;> simp only [exec, execInit, execWrb, execRdb, execRdbit, execWrbit, execWrbf, rmwCommand, execDwb,
          execDwbf, execSelbank, execSetaddr, devWriteCommand, execUpblk, execRdsmp, execRdavg, hp, reduceCtorEq] at h
  | record k x =>
    by_cases hi : i.isCommand = false
    · by_cases hk : ownsSite i k = true
      · rw [exec_record hp hi hk] at h
        cases h
        exact .inr (.inr (.inr (.inl ⟨k, x, rfl, hi, hk, rfl⟩)))
      · cases i <;> cases k <;> first
          | exact absurd rfl hk
          | exact Bool.noConfusion (show true = false from hi)
          | simp only [exec, execRecData, execRecSpcInten, hp, Site.ofUpload, Bool.false_eq_true, if_false,
              reduceCtorEq] at h
    · cases i <;> simp only [Instr.isCommand, not_true_eq_false] at hi <;>
        simp only [exec, execInit, execWrb, execRdb, execRdbit, execWrbit, execWrbf, rmwCommand, execDwb, execDwbf,
          execSelbank, execSetaddr, devWriteCommand, execUpblk, execUpimg, execSetup, execRdsmp, execRdavg, hp,
          reduceCtorEq] at h
  | imageDone r =>
    by_cases hi : runsImage i = true
    · rw [exec_imageDone hp hi] at h
      cases h
      exact .inr (.inr (.inr (.inr (.inl ⟨r, rfl, hi, rfl⟩))))
    · cases i <;> simp only [runsImage, not_true_eq_false] at hi <;>
        simp only [exec, execInit, execWrb, execRdb, execRdbit, execWrbit, execWrbf, rmwCommand, execDwb, execDwbf,
          execSelbank, execSetaddr, devWriteCommand, execUpblk, execRdsmp, execRdavg, execRecData, execRecSpcInten, hp,
          reduceCtorEq] at h
  | ending e =>
    by_cases hi : i.isCommand = true
    · rw [exec_ending hp hi] at h
      cases h
      exact .inr (.inr (.inr (.inr (.inr ⟨e, rfl, hi, rfl⟩))))
    · cases i <;> simp only [Instr.isCommand, not_true_eq_false] at hi <;>
        simp only [exec, execRecData, execRecSpcInten, hp, reduceCtorEq] at h

end Sys2Proof.Machine
end

