-- ==== Sys2Proof/Laws/Memory.lean ====
section
/-! SUPPORT. The laws of byte memories: a read after a write, and that every operation keeps the canonical form. -/

namespace Sys2Proof.Machine

/-! ### Reading after writing -/

theorem Memory.read_write (m : Memory) (a c : Nat) (b : Byte) :
    Memory.read (Memory.write m a b) c = if c = a then some b else Memory.read m c := by
  induction m with
  | nil =>
    by_cases h : c = a
    · simp [Memory.write, Memory.read, h]
    · simp [Memory.write, Memory.read, h, Ne.symm h]
  | cons x m ih =>
    obtain ⟨k, v⟩ := x
    by_cases h : c = a
    · subst h
      simp only [Memory.write, if_true] at *
      by_cases h₁ : c < k
      · simp [h₁, Memory.read]
      · by_cases h₂ : c = k
        · simp [h₂, Memory.read]
        · simp [h₁, h₂, Memory.read, ih, Ne.symm h₂]
    · simp only [Memory.write, if_neg h] at *
      by_cases h₁ : a < k
      · simp [h₁, Memory.read, Ne.symm h]
      · by_cases h₂ : a = k
        · subst h₂; simp [Memory.read, Ne.symm h]
        · simp [h₁, h₂, Memory.read, ih]

theorem Memory.read_write_same (m : Memory) (a : Nat) (b : Byte) : Memory.read (Memory.write m a b) a = some b := by
  simp [Memory.read_write]

theorem Memory.read_write_other (m : Memory) {a c : Nat} (b : Byte) (h : c ≠ a) :
    Memory.read (Memory.write m a b) c = Memory.read m c := by
  simp [Memory.read_write, h]

theorem Memory.read_writeAll (bs : List Byte) (m : Memory) (a c : Nat) :
    Memory.read (Memory.writeAll m a bs) c =
      if a ≤ c ∧ c < a + bs.length then bs[c - a]? else Memory.read m c := by
  induction bs generalizing m a with
  | nil => simp [Memory.writeAll, show ¬(a ≤ c ∧ c < a) by omega]
  | cons b bs ih =>
    simp only [Memory.writeAll, ih, Memory.read_write, List.length_cons]
    by_cases h : c = a
    · subst h; simp
    · by_cases h₁ : a ≤ c
      · have : a + 1 ≤ c := by omega
        have h₂ : c - a = (c - (a + 1)) + 1 := by omega
        rw [h₂, List.getElem?_cons_succ, if_neg h]
        by_cases h₃ : c < a + 1 + bs.length
        · rw [if_pos ⟨this, h₃⟩, if_pos ⟨h₁, by omega⟩]
        · rw [if_neg (by omega), if_neg (by omega)]
      · rw [if_neg (by omega), if_neg h, if_neg (by omega)]

/-! ### The canonical form -/

/-- The canonical form as a property of the list of cells. -/
theorem Memory.wf_iff (m : Memory) : Memory.wf m = true ↔ m.Pairwise fun x y => x.1 < y.1 := by
  induction m with
  | nil => simp [Memory.wf]
  | cons x m ih =>
    cases m with
    | nil => simp [Memory.wf]
    | cons y m =>
      obtain ⟨a, u⟩ := x
      obtain ⟨b, v⟩ := y
      simp only [Memory.wf, Bool.and_eq_true, decide_eq_true_eq, ih, List.pairwise_cons]
      constructor
      · rintro ⟨h, h₁, h₂⟩
        refine ⟨fun z hz => ?_, h₁, h₂⟩
        rcases List.mem_cons.1 hz with rfl | hz
        · exact h
        · exact h.trans (h₁ z hz)
      · rintro ⟨h, h₁, h₂⟩
        exact ⟨h _ (List.mem_cons_self ..), h₁, h₂⟩

theorem Memory.mem_write {m : Memory} {a : Nat} {b : Byte} {x : Host.Cell} (h : x ∈ Memory.write m a b) :
    x = (a, b) ∨ x ∈ m := by
  induction m with
  | nil => simpa [Memory.write] using h
  | cons y m ih =>
    obtain ⟨k, v⟩ := y
    simp only [Memory.write] at h
    split at h
    · simpa using h
    · split at h
      · subst_vars; rcases List.mem_cons.1 h with h | h
        · exact .inl h
        · exact .inr (List.mem_cons_of_mem _ h)
      · rcases List.mem_cons.1 h with rfl | h
        · exact .inr (List.mem_cons_self ..)
        · exact (ih h).imp_right (List.mem_cons_of_mem _)

theorem Memory.wf_write {m : Memory} (h : Memory.wf m = true) (a : Nat) (b : Byte) :
    Memory.wf (Memory.write m a b) = true := by
  rw [Memory.wf_iff] at *
  induction m with
  | nil => simp [Memory.write]
  | cons x m ih =>
    obtain ⟨k, v⟩ := x
    obtain ⟨h₁, h₂⟩ := List.pairwise_cons.1 h
    simp only [Memory.write]
    split
    · rename_i hk
      refine List.pairwise_cons.2 ⟨fun z hz => ?_, h⟩
      rcases List.mem_cons.1 hz with rfl | hz
      · exact hk
      · exact lt_trans hk (h₁ z hz)
    · split
      · subst_vars; exact List.pairwise_cons.2 ⟨h₁, h₂⟩
      · refine List.pairwise_cons.2 ⟨fun z hz => ?_, ih h₂⟩
        rcases Memory.mem_write hz with rfl | hz
        · dsimp only; omega
        · exact h₁ z hz

theorem Memory.wf_writeAll (bs : List Byte) {m : Memory} (h : Memory.wf m = true) (a : Nat) :
    Memory.wf (Memory.writeAll m a bs) = true := by
  induction bs generalizing m a with
  | nil => exact h
  | cons b bs ih => exact ih (Memory.wf_write h a b) (a + 1)

theorem Memory.erase_sublist (m : Memory) (a : Nat) : (Memory.erase m a).Sublist m := by
  induction m with
  | nil => exact .slnil
  | cons x m ih =>
    obtain ⟨k, v⟩ := x
    simp only [Memory.erase]
    split
    · exact List.sublist_cons_self ..
    · exact ih.cons_cons _

theorem Memory.wf_erase {m : Memory} (h : Memory.wf m = true) (a : Nat) : Memory.wf (Memory.erase m a) = true := by
  rw [Memory.wf_iff] at *
  exact h.sublist (Memory.erase_sublist m a)

theorem RefDev.wf_poke {m : Memory} (h : Memory.wf m = true) (a : Nat) (b : Byte) :
    Memory.wf (RefDev.poke m a b) = true := by
  unfold RefDev.poke
  split
  · exact Memory.wf_erase h a
  · exact Memory.wf_write h a b

/-- The memories of the state after reset have the canonical form. -/
theorem Memory.wf_reset : Memory.wf State.reset.pbuf = true ∧ Memory.wf State.reset.img = true := ⟨rfl, rfl⟩

/-! ### Bytes of PBUF and IMG -/

theorem State.pbufByte_congr {s t : State} (hp : t.pbuf = s.pbuf) (he : t.epoch = s.epoch) (i : Nat) :
    t.pbufByte i = s.pbufByte i := by
  simp [State.pbufByte, hp, he]

theorem State.imgByte_congr {s t : State} (hi : t.img = s.img) (he : t.epoch = s.epoch) (a : Nat) :
    t.imgByte a = s.imgByte a := by
  simp [State.imgByte, hi, he]

theorem State.pbufByte_storePbuf (s : State) (bytes : List Byte) (a : Nat) :
    (s.storePbuf bytes).pbufByte a = if a < bytes.length then bytes.getD a 0 else s.pbufByte a := by
  simp only [State.pbufByte, State.storePbuf, Memory.read_writeAll]
  by_cases h : a < bytes.length
  · simp [h]
  · simp [h]

@[simp] theorem State.length_pbufBytes (s : State) (n : Nat) : (s.pbufBytes n).length = n := by
  simp [State.pbufBytes]

@[simp] theorem State.length_imgBytes (s : State) (a n : Nat) : (s.imgBytes a n).length = n := by
  simp [State.imgBytes]

end Sys2Proof.Machine
end

