-- ==== Sys2Proof/Laws/PerInstr.lean ====
section
/-! SUPPORT. The family `EncodedSize`, one lemma per constructor of Instr: a command is written in a descriptor, a record
in as many bytes as its own header says (R110, R123). -/

namespace Sys2Proof.Laws

/-- A command is encoded as a descriptor; a record is encoded as bytes, and one that is well formed has the size that
its length byte says. -/
def EncodedSize.Statement (i : Instr) : Prop :=
  match encode i with
  | .descriptor _ => i.isCommand = true
  | .record bytes => i.isCommand = false ∧ (i.wellFormed = true → bytes.length = recordSize bytes)

theorem EncodedSize.init : EncodedSize.Statement .init := rfl

theorem EncodedSize.wrb (sa : BitVec 7) (reg : Byte) (cnt : BitVec 16) : EncodedSize.Statement (.wrb sa reg cnt) := rfl

theorem EncodedSize.rdb (sa : BitVec 7) (reg : Byte) (cnt : BitVec 16) : EncodedSize.Statement (.rdb sa reg cnt) := rfl

theorem EncodedSize.rdbit (sa : BitVec 7) (reg : Byte) (bit : BitVec 3) :
    EncodedSize.Statement (.rdbit sa reg bit) := rfl

theorem EncodedSize.wrbit (sa : BitVec 7) (reg : Byte) (bit : BitVec 3) (v : BitVec 1) :
    EncodedSize.Statement (.wrbit sa reg bit v) := rfl

theorem EncodedSize.wrbf (sa : BitVec 7) (reg : Byte) (start : BitVec 3) (width : BitVec 4) (value : Byte) :
    EncodedSize.Statement (.wrbf sa reg start width value) := rfl

theorem EncodedSize.dwb (reg value : Byte) : EncodedSize.Statement (.dwb reg value) := rfl

theorem EncodedSize.dwbf (reg : Byte) (start : BitVec 3) (width : BitVec 4) (value : Byte) :
    EncodedSize.Statement (.dwbf reg start width value) := rfl

theorem EncodedSize.selbank (bank : BitVec 5) (pf ub : BitVec 1) : EncodedSize.Statement (.selbank bank pf ub) := rfl

theorem EncodedSize.setaddr (offs : Byte) : EncodedSize.Statement (.setaddr offs) := rfl

theorem EncodedSize.upblk (v : BitVec 1) (bank : BitVec 5) (offs : Byte) (size src : BitVec 16) :
    EncodedSize.Statement (.upblk v bank offs size src) := rfl

theorem EncodedSize.upimg (v : BitVec 1) (len src : BitVec 16) : EncodedSize.Statement (.upimg v len src) := rfl

theorem EncodedSize.setup : EncodedSize.Statement .setup := rfl

theorem EncodedSize.rdsmp : EncodedSize.Statement .rdsmp := rfl

theorem EncodedSize.rdavg (n : BitVec 16) : EncodedSize.Statement (.rdavg n) := rfl

theorem EncodedSize.recData (bank offs : Byte) (data : List Byte) : EncodedSize.Statement (.recData bank offs data) := by
  refine ⟨rfl, fun h => ?_⟩
  simp only [Instr.wellFormed, dataNotEmpty, dataFitsLengthByte, Bool.and_eq_true, decide_eq_true_eq] at h
  have hl : (BitVec.ofNat 8 data.length).toNat = data.length := by
    rw [BitVec.toNat_ofNat]; omega
  have hz : BitVec.ofNat 8 data.length ≠ 0 := by
    intro h₀
    rw [h₀] at hl
    have : (0 : BitVec 8).toNat = 0 := rfl
    omega
  simp only [recordSize, List.getD_cons_succ, List.getD_cons_zero, if_neg hz, hl, List.length_cons]
  omega

theorem EncodedSize.recSpcInten (bank offs : Byte) : EncodedSize.Statement (.recSpcInten bank offs) :=
  ⟨rfl, fun _ => rfl⟩

end Sys2Proof.Laws
end

