-- ==== Sys2Proof/Laws/Step.lean ====
section
/-! SUPPORT. What one step of the machine can be, said once: taking a move off the agenda, if there is one, and then
one of ten turns. -/

namespace Sys2Proof.Machine

/-- The turns of the three agents: what one step makes of a state whose move has been taken off the agenda. -/
inductive Turn (u : State) : State → Prop
  | stay : Turn u u
  | lift (h : u.lingers = true) : Turn u (liftHold u)
  | run (i : Instr) (t : State) (hp : u.seq.phase ≠ .idle) (hf : fetch u = some i) (he : exec i u = .next t) : Turn u t
  | reject (hp : u.seq.phase ≠ .idle) (hf : fetch u = none) : Turn u (rejectCommand u)
  | accept (d : Descriptor) (hb : u.busy = false) : Turn u (acceptCommand d u)
  | pbuf (i : Nat) (v : Byte) (hb : u.busy = false) : Turn u { u with pbuf := Memory.write u.pbuf i v }
  | img (a : Nat) (v : Byte) (hb : u.busy = false) : Turn u { u with img := Memory.write u.img a v }
  | stopped (h : u.bt.stp = true) : Turn u (stopComplete u)
  | foreign (v : Bool) (h : u.inTransaction = false) : Turn u (setBusy v u)
  | reset : Turn u (resetBlock u)

theorem State.lingers_of_running {s : State} (h : s.seq.phase ≠ .idle) : s.lingers = s.held := by
  unfold State.lingers
  split
  · exact absurd ‹_› h
  · rfl

theorem blockTurn_cases {u t : State} (h : blockTurn u = .next t) : Turn u t := by
  unfold blockTurn at h
  split at h
  · cases h; exact .stay
  · rename_i hp
    split at h
    · rename_i i hf; exact .run i t hp hf h
    · rename_i hf; cases h; exact .reject hp hf

theorem defaultTurn_cases {u t : State} (h : defaultTurn u = .next t) : Turn u t := by
  unfold defaultTurn at h
  split at h
  · rename_i hh; cases h; exact .lift ((Bool.and_eq_true _ _).mp hh).1
  · exact blockTurn_cases h

theorem outsideMove_cases {m : Move} {u t : State} (h : outsideMove m u = .next t) : Turn u t := by
  cases m <;> simp only [outsideMove, hostWrite, hostWritePbuf, hostWriteImg] at h <;> (repeat' split at h) <;>
    cases h <;> first
      | exact .stay
      | exact .reset
      | exact .stopped ‹_›
      | exact .accept _ (Bool.eq_false_iff.mpr ‹_›)
      | exact .pbuf _ _ (Bool.eq_false_iff.mpr ‹_›)
      | exact .img _ _ (Bool.eq_false_iff.mpr ‹_›)
      | (rename_i hh; simp only [Bool.and_eq_true, Bool.not_eq_true'] at hh; exact .foreign _ hh.2)

/-- One step: CFG is legal, a move is taken off the agenda or none is, and a turn follows. -/
theorem step_cases {s t : State} (h : step s = .next t) :
    cfgLegal s.cfg = true ∧
      ∃ u, (u = s ∨ ∃ m rest, s.moves = m :: rest ∧ u = { s with moves := rest }) ∧ Turn u t := by
  unfold step at h
  split at h
  · cases h
  · rename_i hc
    refine ⟨by simpa using hc, ?_⟩
    split at h
    · rename_i hd
      simp only [State.refDevDue, Bool.and_eq_true] at hd
      cases h
      exact ⟨s, .inl rfl, .stopped hd.1.2⟩
    split at h
    · exact ⟨s, .inl rfl, defaultTurn_cases h⟩
    · split at h
      · exact ⟨s, .inl rfl, defaultTurn_cases h⟩
      · cases h; exact ⟨_, .inr ⟨_, _, ‹_›, rfl⟩, .stay⟩
    · exact ⟨_, .inr ⟨_, _, ‹_›, rfl⟩, blockTurn_cases h⟩
    · exact ⟨_, .inr ⟨_, _, ‹_›, rfl⟩, outsideMove_cases h⟩

end Sys2Proof.Machine
end

