-- ==== Sys2Proof/Laws/Transfer.lean ====
section
/-! SUPPORT. A transaction step by step, as a command runs it under answers that ENV has ready: each lemma is one
primitive, or the payload bytes of a write or of a read in one go. -/

namespace Sys2Proof.Machine

/-! ### Several steps -/

theorem execTimes_succ {n : Nat} {i : Instr} {s t : State} (h : exec i s = .next t) :
    execTimes (n + 1) i s = execTimes n i t := by
  simp only [execTimes, h]

theorem execTimes_add {m n : Nat} {i : Instr} {s t : State} (h : execTimes m i s = .next t) :
    execTimes (m + n) i s = execTimes n i t := by
  induction m generalizing s with
  | zero => simp only [execTimes, Host.Outcome.next.injEq] at h; subst h; rw [Nat.zero_add]
  | succ m ih =>
    rw [Nat.succ_add]
    simp only [execTimes] at h ⊢
    cases he : exec i s with
    | next u => simp only [he] at h ⊢; exact ih h
    | fault f => simp only [he, reduceCtorEq] at h
    | refused r => simp only [he, reduceCtorEq] at h

/-- A step of a command inside a transaction that goes on. -/
theorem exec_cmd_go {i : Instr} {s t : State} {k : Site} {x y : XferAt} (hi : i.isCommand = true)
    (hk : ownsSite i k = true) (hp : s.seq.phase = .cmd k x) (hx : xferStep s x = .go y t) :
    exec i s = .next (t.goto (.cmd k y)) := by
  rw [exec_cmd hp hi hk]; simp only [State.xfer, hx]

/-- A step of a command at which its transaction returns. -/
theorem exec_cmd_done {i : Instr} {s t : State} {k : Site} {x : XferAt} {r : Reply} (hi : i.isCommand = true)
    (hk : ownsSite i k = true) (hp : s.seq.phase = .cmd k x) (hx : xferStep s x = .done r t) :
    exec i s = .next (cmdReply s.cfg i k r t) := by
  rw [exec_cmd hp hi hk]; simp only [State.xfer, hx]

/-! ### One primitive -/

/-- ENV after an answer of its list has been used: the list is shorter, the other lists are as they were. -/
structure EnvUsed (e : Env) (addr tx : List Answer) (rx : List Byte) (ready : List Bool) (f : Env) : Prop where
  addr : f.addr = addr
  tx : f.tx = tx
  rx : f.rx = rx
  ready : f.ready = ready
  drawn : f.drawn = e.drawn
  resolves : f.resolves = e.resolves

/-- `Start` with an answer ready. -/
theorem State.start_ready {s : State} {dir : Dir} {a : Answer} {rest : List Answer} (h : s.env.addr = a :: rest) :
    ∃ e, EnvUsed s.env rest s.env.tx s.env.rx s.env.ready e ∧
      s.start dir = (a, { s with
        bt := noteAnswer a (startModes dir s.bt), trace := s.trace ++ [.start, .addr s.bt.sa dir a], env := e }) :=
  ⟨{ s.env with addr := rest, dev := s.env.dev.map fun r => r.addressed dir a }, ⟨rfl, rfl, rfl, rfl, rfl, rfl⟩, by
    simp only [State.start, Env.askAddr_ready h]⟩

/-- `Tx` with an answer ready. -/
theorem State.tx_ready {s : State} {b : Byte} {a : Answer} {rest : List Answer} (h : s.env.tx = a :: rest) :
    ∃ e, EnvUsed s.env s.env.addr rest s.env.rx s.env.ready e ∧
      s.tx b = (a, { s with
        bt := noteAnswer a (countTx s.bt), trace := s.trace ++ [.tx b a], env := e }) :=
  ⟨{ s.env with tx := rest, dev := s.env.dev.map fun r => r.transmitted s.cfg.dev b a }, ⟨rfl, rfl, rfl, rfl, rfl, rfl⟩,
    by simp only [State.tx, Env.askTx_ready h]⟩

/-- `Rx` with a byte ready. -/
theorem State.rx_ready {s : State} {b : Byte} {rest : List Byte} (h : s.env.rx = b :: rest) :
    ∃ e, EnvUsed s.env s.env.addr s.env.tx rest s.env.ready e ∧
      s.rx = { s with
        bt := countDown s.bt, trace := s.trace ++ [.rx b], env := e, seq := { s.seq with rbuf := s.seq.rbuf ++ [b] } } :=
  ⟨{ s.env with rx := rest, dev := s.env.dev.map fun r => (r.received s.cfg.dev).2 }, ⟨rfl, rfl, rfl, rfl, rfl, rfl⟩, by
    simp only [State.rx, Env.askRx_ready h]⟩

/-- A primitive after which the procedure returns `Fail(c)`: nothing but the bus side of the state changes, and after a
timeout the controller is initialised. -/
theorem xferFails_done {s : State} {x : XferAt} {c : Code} (h : xferFails s x c) :
    ∃ t, xferStep s x = .done (.fail c) t ∧ OnlyBus s t ∧ (x = .r .timeout → t.bt.initd = true) := by
  suffices hs : ∃ t, xferStep s x = .done (.fail c) t ∧ (x = .r .timeout → t.bt.initd = true) by
    obtain ⟨t, ht, hi⟩ := hs
    exact ⟨t, ht, (xferStep_done ht).1, hi⟩
  rcases x with (_ | _ | _ | _ | _) | (_ | _ | _ | _ | _ | _ | _ | _ | _) <;> simp only [xferFails] at h
  case w.start | r.start1 | r.start2 =>
    obtain ⟨hf, ⟨rest, he⟩, rfl⟩ := h
    have hb : busHeld s.bt = false := by simp only [busHeld, hf.1, hf.2, Bool.or_self]
    exact ⟨_, by simp only [xferStep, writeStep, readStep, hb, Bool.false_eq_true, if_false, State.start,
      Env.askAddr_ready he]; rfl, nofun⟩
  case w.reg | r.reg =>
    obtain ⟨⟨rest, he⟩, rfl⟩ := h
    exact ⟨_, by simp only [xferStep, writeStep, readStep, State.tx, Env.askTx_ready he]; rfl, nofun⟩
  case w.data =>
    obtain ⟨hn, ⟨rest, he⟩, rfl⟩ := h
    cases hb : s.seq.txbuf with
    | nil => exact absurd hb hn
    | cons b bs => exact ⟨_, by simp only [xferStep, writeStep, hb, State.tx, Env.askTx_ready he]; rfl, nofun⟩
  case w.nackStop =>
    obtain ⟨hr, rfl⟩ := h
    exact ⟨_, by simp only [xferStep, writeStep, State.stop, State.clearNack, stopModes, hr, if_true]; rfl, nofun⟩
  case w.payloadStop | r.nackStop => subst h; exact ⟨_, rfl, nofun⟩
  case r.timeout => subst h; exact ⟨_, rfl, fun _ => rfl⟩

/-! ### Payload bytes -/

/-- The payload of a write that is acknowledged, in repeat mode: one step per byte. -/
theorem exec_payload {i : Instr} {k : Site} (hi : i.isCommand = true) (hk : ownsSite i k = true) (bs more : List Byte)
    (s : State) (txs : List Answer) (hp : s.seq.phase = .cmd k (.w .data)) (hb : s.seq.txbuf = bs ++ more)
    (hm : s.bt.rm = true) (he : s.env.tx = List.replicate bs.length .ack ++ txs) :
    ∃ e, EnvUsed s.env s.env.addr txs s.env.rx s.env.ready e ∧
      execTimes bs.length i s = .next { s with
        trace := s.trace ++ bs.map (fun b => .tx b .ack), env := e, seq := { s.seq with txbuf := more } } := by
  induction bs generalizing s with
  | nil =>
    refine ⟨s.env, ⟨rfl, by simpa using he, rfl, rfl, rfl, rfl⟩, ?_⟩
    simp only [List.length_nil, execTimes, List.map_nil, List.append_nil, Host.Outcome.next.injEq]
    simp only [List.nil_append] at hb
    rw [← hb]
  | cons b bs ih =>
    simp only [List.length_cons, List.replicate_succ, List.cons_append] at he hb
    obtain ⟨e, hu, ht⟩ := State.tx_ready (s := { s with seq := { s.seq with txbuf := bs ++ more } }) (b := b) he
    have hx : xferStep s (.w .data) =
        .go (.w .data) (State.tx { s with seq := { s.seq with txbuf := bs ++ more } } b).2 := by
      simp only [xferStep, writeStep, hb, ht]
    have h₁ := exec_cmd_go hi hk hp hx
    rw [ht] at h₁
    obtain ⟨f, hf, hr⟩ := ih (State.goto { s with
      bt := noteAnswer .ack (countTx s.bt), trace := s.trace ++ [.tx b .ack], env := e,
      seq := { s.seq with txbuf := bs ++ more } } (.cmd k (.w .data))) rfl rfl
      (by simp [noteAnswer, countTx, hm]) hu.tx
    refine ⟨f, ⟨hf.addr.trans hu.addr, hf.tx, hf.rx.trans hu.rx, hf.ready.trans hu.ready, hf.drawn.trans hu.drawn,
      hf.resolves.trans hu.resolves⟩, ?_⟩
    rw [List.length_cons, execTimes_succ h₁, hr]
    simp [State.goto, noteAnswer, countTx, hm, hp]

/-- The bytes of a read: one step per byte, BCNT counting down to 0 (R146, R153). -/
theorem exec_receive {i : Instr} {k : Site} (hi : i.isCommand = true) (hk : ownsSite i k = true) (bs : List Byte)
    (s : State) (rxs : List Byte) (hp : s.seq.phase = .cmd k (.r .rx)) (hb : s.bt.bcnt.toNat = bs.length)
    (hn : bs ≠ []) (he : s.env.rx = bs ++ rxs) :
    ∃ e, EnvUsed s.env s.env.addr s.env.tx rxs s.env.ready e ∧
      execTimes bs.length i s = .next { s with
        bt := { s.bt with bcnt := 0 }, trace := s.trace ++ bs.map .rx, env := e,
        seq := { s.seq with rbuf := s.seq.rbuf ++ bs, phase := .cmd k (.r .stop2) } } := by
  induction bs generalizing s with
  | nil => exact absurd rfl hn
  | cons b bs ih =>
    obtain ⟨e, hu, ht⟩ := State.rx_ready (s := s) (b := b) he
    have hc : (s.bt.bcnt - 1).toNat = bs.length := by
      simp only [List.length_cons] at hb
      bv_omega
    cases bs with
    | nil =>
      have hz : s.bt.bcnt - 1 = 0 := by
        apply BitVec.eq_of_toNat_eq; simpa using hc
      have hx : xferStep s (.r .rx) = .go (.r .stop2) s.rx := by
        simp only [xferStep, readStep, ht, countDown, hz, if_true]
      refine ⟨e, hu, ?_⟩
      simp only [List.length_cons, List.length_nil]
      rw [execTimes_succ (exec_cmd_go hi hk hp hx), ht]
      simp only [execTimes, State.goto, countDown, hz, List.map_cons, List.map_nil]
    | cons c cs =>
      have hz : ¬ s.bt.bcnt - 1 = 0 := by
        intro h; rw [h] at hc; simp at hc
      have hx : xferStep s (.r .rx) = .go (.r .rx) s.rx := by
        simp only [xferStep, readStep, ht, countDown, hz, if_false]
      have h₁ := exec_cmd_go hi hk hp hx
      rw [ht] at h₁
      obtain ⟨f, hf, hr⟩ := ih (State.goto { s with
        bt := countDown s.bt, trace := s.trace ++ [.rx b], env := e,
        seq := { s.seq with rbuf := s.seq.rbuf ++ [b] } } (.cmd k (.r .rx))) rfl hc (by simp) hu.rx
      refine ⟨f, ⟨hf.addr.trans hu.addr, hf.tx.trans hu.tx, hf.rx, hf.ready.trans hu.ready, hf.drawn.trans hu.drawn,
        hf.resolves.trans hu.resolves⟩, ?_⟩
      rw [List.length_cons, execTimes_succ h₁, hr]
      simp [State.goto, countDown]

end Sys2Proof.Machine
end

