-- ==== Sys2Proof/Tests/Slice0.lean ====
section
/-! SUPPORT. Own tests. Expected values come from the spec: the encodings of `30_encoding.md`, the vectors of
`95_test_vectors.md` (their numbers stand beside the tests), and hand calculation from the rules. Then a witness for
the hypotheses of every statement that has some. -/

open Sys2Proof Sys2Proof.Machine

namespace Sys2Proof.Tests

/-! ## Helpers -/

/-- A property of the next state. -/
def after (o : Out) (p : State → Bool) : Bool :=
  match o with
  | .next t => p t
  | .fault _ => false
  | .refused _ => false

/-- The words a host needs to see of a state: RESULT and the events of TRACE. -/
def shows (o : Out) (r : BitVec 32) (es : List Event) : Bool := after o fun t => resultWord t == r && t.trace == es

/-- ENV with answers ready. -/
def answers (addr tx : List Answer) (rx : List Byte) (ready : List Bool) : Env :=
  { Env.free with addr := addr, tx := tx, rx := rx, ready := ready }

/-- A command in a phase, on an initialised block with a free bus, with answers ready. -/
def runs (p : Phase) (e : Env := Env.free) : State :=
  { State.reset with
    busy := true, env := e, seq := { Seq.idle with phase := p },
    bt := { BusRegs.zero with initd := true, irs := true, mst := true } }

/-- The same for the sample commands: DEVSTAT = DMPReady. -/
def samples (p : Phase) (e : Env := Env.free) : State :=
  { runs p e with ae := { AcqRegs.zero 0 with devstat := .dmpReady } }

/-- The same with received bytes. -/
def received (p : Phase) (bytes : List Byte) : State :=
  { samples p with seq := { Seq.idle with phase := p, rbuf := bytes } }

/-- An idle block with one move on the agenda. -/
def given (m : Move) : State := { State.reset with moves := [m] }

/-- A busy block with one move on the agenda. -/
def givenBusy (m : Move) : State := { State.reset with moves := [m], busy := true }

/-- A block upload at a place of its chunk: 6 bytes to bank 1 from offset 250, of 10 remaining, from IMG 0. -/
def uploads (p : Phase) : State :=
  { runs p with
    fp := { ProgRegs.zero 16 with curbank := 1, curoff := 250, remain := 10, chunklen := 6 } }

/-- The same with verify, at the one byte 9 of IMG 0, which has been read back. -/
def verifies (p : Phase) : State :=
  { runs p with
    fp := { ProgRegs.zero 16 with remain := 1, chunklen := 1, verify := true }, img := [(0, 9)],
    seq := { Seq.idle with phase := p, rbuf := [9] } }

/-- The same, but 6 has been read back. -/
def misread (p : Phase) : State := { verifies p with seq := { Seq.idle with phase := p, rbuf := [6] } }

/-- RefDev with nothing stored in it. -/
def device : RefDev := ⟨0x68, [], 0, true, 0, 0, [], []⟩

/-- RefDev on the bus with a STOP to complete, and ENV that lifts nothing of its own. -/
def stopped (p : Phase) : State :=
  { runs p { Env.free with dev := some device, resolves := false } with
    busy := !(p == .idle), bt := { (runs p).bt with bb := true, stp := true } }

/-- A command with one byte left to send, at which arbitration is lost. -/
def unsent (p : Phase) : State :=
  { samples p (answers [] [.arblost] [] []) with seq := { Seq.idle with phase := p, txbuf := [0x44] } }

/-- A command in the second attempt of a write. -/
def retried (p : Phase) : State := { samples p with bt := { (samples p).bt with retry := true } }

/-- A read at call site `k` fails: every place of `BT_Read` at which it can, each with its code. -/
def failsAt (k : Site) : Prop :=
  xferFails (samples (.cmd k (.r .start1)) (answers [.arblost] [] [] [])) (.r .start1) .arbLost ∧
  xferFails (samples (.cmd k (.r .reg)) (answers [] [.arblost] [] [])) (.r .reg) .arbLost ∧
  xferFails (samples (.cmd k (.r .start2)) (answers [.arblost] [] [] [])) (.r .start2) .arbLost ∧
  xferFails (samples (.cmd k (.r .nackStop))) (.r .nackStop) .busNack ∧
  xferFails (samples (.cmd k (.r .timeout))) (.r .timeout) .busTimeout

theorem failsAt_all (k : Site) : failsAt k :=
  ⟨⟨⟨rfl, rfl⟩, ⟨[], rfl⟩, rfl⟩, ⟨⟨[], rfl⟩, rfl⟩, ⟨⟨rfl, rfl⟩, ⟨[], rfl⟩, rfl⟩, rfl, rfl⟩

/-- A write at call site `k` fails: every place of `BT_Write` at which it can, each with its code. -/
def writeFailsAt (k : Site) : Prop :=
  xferFails (samples (.cmd k (.w .start)) (answers [.arblost] [] [] [])) (.w .start) .arbLost ∧
  xferFails (samples (.cmd k (.w .reg)) (answers [] [.arblost] [] [])) (.w .reg) .arbLost ∧
  xferFails (unsent (.cmd k (.w .data))) (.w .data) .arbLost ∧
  xferFails (retried (.cmd k (.w .nackStop))) (.w .nackStop) .busNack ∧
  xferFails (samples (.cmd k (.w .payloadStop))) (.w .payloadStop) .busNack

theorem writeFailsAt_all (k : Site) : writeFailsAt k :=
  ⟨⟨⟨rfl, rfl⟩, ⟨[], rfl⟩, rfl⟩, ⟨⟨[], rfl⟩, rfl⟩, ⟨nofun, ⟨[], rfl⟩, rfl⟩, ⟨rfl, rfl⟩, rfl⟩

/-! ## Well-formedness -/

/-- A data record with no data has no encoding: length byte 0 is a special record (R123). -/
theorem test_wellFormed_refuses_empty_data : Instr.wellFormed (.recData 0 0 []) = false := by decide

/-- A data record with 256 bytes does not fit its length byte (R123). -/
theorem test_wellFormed_refuses_long_data : Instr.wellFormed (.recData 0 0 (List.replicate 256 0)) = false := by
  rw [Instr.wellFormed, dataNotEmpty, dataFitsLengthByte, List.length_replicate]; rfl

theorem test_wellFormed_admits_longest_data : Instr.wellFormed (.recData 0 0 (List.replicate 255 0)) = true := by
  rw [Instr.wellFormed, dataNotEmpty, dataFitsLengthByte, List.length_replicate]; rfl

/-! ## Decoding, every constructor, from words written out from the encodings -/

/-- V19b. -/
theorem test_decode_init : decodeDescriptor 0x0100000000000000 = .ok .init := by decide

/-- V40: SA = 0x68 in 54:48, REG = 0x6B in 47:40, CNT = 1 in 39:24. -/
theorem test_decode_wrb : decodeDescriptor 0x02686B0001000000 = .ok (.wrb 0x68 0x6B 1) := by decide

/-- V18a. -/
theorem test_decode_wrb_ones : decodeDescriptor 0x027FFFFFFF000000 = .ok (.wrb 0x7F 0xFF 0xFFFF) := by decide

/-- V52. -/
theorem test_decode_rdb : decodeDescriptor 0x03683B0004000000 = .ok (.rdb 0x68 0x3B 4) := by decide

/-- V80: BIT = 1 in 39:37. -/
theorem test_decode_rdbit : decodeDescriptor 0x04686B2000000000 = .ok (.rdbit 0x68 0x6B 1) := by decide

/-- V84: BIT = 0, V = 1 in bit 24. -/
theorem test_decode_wrbit : decodeDescriptor 0x05686B0001000000 = .ok (.wrbit 0x68 0x6B 0 1) := by decide

/-- V18b: START = 7 in 39:37, WIDTH = 15 in 35:32, VALUE = 0xFF in 31:24. -/
theorem test_decode_wrbf : decodeDescriptor 0x06681BEFFF000000 = .ok (.wrbf 0x68 0x1B 7 15 0xFF) := by decide

/-- V94. -/
theorem test_decode_dwb : decodeDescriptor 0x1000380032000000 = .ok (.dwb 0x38 0x32) := by decide

/-- V95. -/
theorem test_decode_dwbf : decodeDescriptor 0x11006AA101000000 = .ok (.dwbf 0x6A 5 1 1) := by decide

/-- V97a: PF in bit 33, UB in bit 32, BANK in 28:24. -/
theorem test_decode_selbank : decodeDescriptor 0x1200000203000000 = .ok (.selbank 3 1 0) := by decide

/-- V98b. -/
theorem test_decode_setaddr : decodeDescriptor 0x13000000FF000000 = .ok (.setaddr 0xFF) := by decide

/-- P3: V in bit 55, BANK in 52:48, OFFS in 47:40, SIZE in 39:24, SRC in 23:8. -/
theorem test_decode_upblk : decodeDescriptor 0x2081FA000A002000 = .ok (.upblk 1 1 0xFA 10 0x20) := by decide

/-- V67. -/
theorem test_decode_upimg : decodeDescriptor 0x21000000020FFF00 = .ok (.upimg 0 2 4095) := by decide

/-- P5. -/
theorem test_decode_setup : decodeDescriptor 0x3000000000000000 = .ok .setup := by decide

/-- V31. -/
theorem test_decode_rdsmp : decodeDescriptor 0x3100000000000000 = .ok .rdsmp := by decide

/-- V30. -/
theorem test_decode_rdavg : decodeDescriptor 0x3200000002000000 = .ok (.rdavg 2) := by decide

/-- V68: bank 4, offset 0xFE, five bytes; what follows is left. -/
theorem test_decode_recData :
    decodeRecord [0x04, 0xFE, 0x05, 1, 2, 3, 4, 5, 0x77] = .ok (.recData 4 0xFE [1, 2, 3, 4, 5], [0x77]) := by decide

/-- R209: length byte 0, opcode 0x01. -/
theorem test_decode_recSpcInten :
    decodeRecord [0x07, 0x08, 0x00, 0x01] = .ok (.recSpcInten 7 8, []) := by decide

/-- V17a, V17l, V17m: reserved opcodes. -/
theorem test_decode_reserved :
    [0x0000000000000000, 0x0700000000000000, 0x3300000000000000, 0xFFFFFFFFFFFFFFFF].map decodeDescriptor =
      [.error (.reservedOpcode 0x00), .error (.reservedOpcode 0x07), .error (.reservedOpcode 0x33),
        .error (.reservedOpcode 0xFF)] := by decide

/-- V17b to V17k: a must-be-zero bit set, for nine opcodes. -/
theorem test_decode_mustBeZero :
    [0x0100000000000001, 0x0280000000000000, 0x04686B2001000000, 0x0668001000000000, 0x1001000000000000,
      0x1200000020000000, 0x2020000000000000, 0x2100010000000000, 0x3200010000000000].map decodeDescriptor =
      [.error (.mustBeZeroBitSet 0x01), .error (.mustBeZeroBitSet 0x02), .error (.mustBeZeroBitSet 0x04),
        .error (.mustBeZeroBitSet 0x06), .error (.mustBeZeroBitSet 0x10), .error (.mustBeZeroBitSet 0x12),
        .error (.mustBeZeroBitSet 0x20), .error (.mustBeZeroBitSet 0x21), .error (.mustBeZeroBitSet 0x32)] := by decide

/-- V60 to V63: a special record with opcode 0x02, data cut short, header cut short, opcode cut short. -/
theorem test_decode_badRecords :
    (decodeRecord [0, 0, 0, 2] = .error (.badSpecialOpcode 2)) ∧ decodeRecord [0, 0, 4, 1, 2] = .error .dataCutShort ∧
      decodeRecord [0, 0] = .error .headerCutShort ∧ decodeRecord [0, 0, 0] = .error .opcodeCutShort := by decide

/-- The opcode table's numbering: 64 bits are a descriptor, and 32 bits a special record, first byte leftmost. -/
theorem test_decodeTableWord :
    decodeTableWord 64 0x1300000020000000 = some (.setaddr 0x20) ∧
      decodeTableWord 32 0xAABB0001 = some (.recSpcInten 0xAA 0xBB) := by decide

/-- The 24 header bits of a data record with length 2, and zeros for its data. -/
theorem test_decodeTableWord_data : decodeTableWord 24 0x030402 = some (.recData 3 4 [0, 0]) := by decide

/-! ## A placed word is the next thing a step runs -/

theorem test_withFetchWord_init :
    shows (step (State.reset.withFetchWord 64 0x0100000000000000)) 0 [.reset, .init] = true := by decide

theorem test_withFetchWord_notReady :
    shows (step (State.reset.withFetchWord 64 0x1300000020000000)) 0x00020009 [] = true := by decide

theorem test_withFetchWord_record :
    after (step (State.reset.withFetchWord 32 0x00000001)) (fun t =>
      t.seq.phase == .record .intEnable (.w .start) && t.bt.rega == 0x38 && t.seq.txbuf == [0x32]) = true := by decide

/-! ## One step of each instruction -/

/-- V19b: `RESET INIT`, STATUS = 0x2202 at the end. -/
theorem test_step_init :
    after (exec .init { State.reset with seq := { Seq.idle with phase := .accepted } }) (fun t =>
      t.trace == [.reset, .init] && statusWord t == 0x00002202) = true := by decide

/-- V49: CNT = 65 with PBUF_SIZE 64. -/
theorem test_step_wrb_illegal : shows (exec (.wrb 0x68 0x6B 65) (runs .accepted)) 0x00020008 [] = true := by decide

/-- V41: the address byte is not acknowledged. -/
theorem test_step_wrb_nack :
    after (exec (.wrb 0x68 0x6B 1)
      { runs (.cmd .wrb (.w .start)) (answers [.nack] [] [] []) with bt := { (runs .idle).bt with sa := 0x68 } })
      (fun t => t.trace == [.start, .addr 0x68 .write .nack] && t.seq.phase == .cmd .wrb (.w .nackStop)) = true := by
  decide

/-- V58: CNT = 0. -/
theorem test_step_rdb_illegal : shows (exec (.rdb 0x68 0x75 0) (runs .accepted)) 0x00020008 [] = true := by decide

/-- V53: the timeout recovery. -/
theorem test_step_rdb_timeout :
    after (exec (.rdb 0x68 0x75 1) (runs (.cmd .rdb (.r .timeout)))) (fun t =>
      t.trace == [.stop, .reset, .init] && statusWord t == 0x00002203 &&
        t.seq.phase == .ending (.fail .busTimeout .ok)) = true := by decide

/-- V80: 0x40 has bit 1 set, counted from the most significant. -/
theorem test_step_rdbit :
    after (exec (.rdbit 0x68 0x6B 1) (received (.cmd .rdbit (.r .stop2)) [0x40])) (fun t =>
      t.seq.phase == .ending (.succeed true) && t.bt.tmpb == 0x40) = true := by decide

/-- V82: bit 7 of 0x40 is clear. -/
theorem test_step_rdbit_clear :
    after (exec (.rdbit 0x68 0x6B 7) (received (.cmd .rdbit (.r .stop2)) [0x40])) (fun t =>
      t.seq.phase == .ending (.succeed false)) = true := by decide

/-- V84: bit 0 of 0x01 set gives 0x81. -/
theorem test_step_wrbit :
    after (exec (.wrbit 0x68 0x6B 0 1) (received (.cmd .rmwRead (.r .stop2)) [0x01])) (fun t =>
      t.seq.txbuf == [0x81] && t.seq.phase == .cmd .rmwWrite (.w .start)) = true := by decide

/-- V86: FieldInsert(0xE7, 3, 2, 3) = 0xFF. -/
theorem test_step_wrbf :
    after (exec (.wrbf 0x68 0x1B 3 2 3) (received (.cmd .rmwRead (.r .stop2)) [0xE7])) (fun t =>
      t.seq.txbuf == [0xFF] && t.bt.rega == 0x1B && t.bt.sa == 0x68) = true := by decide

/-- V89c: 6 + 3 > 8. -/
theorem test_step_wrbf_illegal : shows (exec (.wrbf 0x68 0x1B 6 3 3) (runs .accepted)) 0x00020008 [] = true := by
  decide

/-- V93. -/
theorem test_step_dwb :
    after (exec (.dwb 0x6B 0) (runs .accepted)) (fun t =>
      t.bt.sa == 0x68 && t.bt.rega == 0x6B && t.seq.txbuf == [0]) = true := by decide

/-- V95: 0xC0 becomes 0xC4. -/
theorem test_step_dwbf :
    after (exec (.dwbf 0x6A 5 1 1) (received (.cmd .rmwRead (.r .stop2)) [0xC0])) (fun t =>
      t.seq.txbuf == [0xC4] && t.bt.sa == 0x68) = true := by decide

/-- V97b. -/
theorem test_step_selbank :
    after (exec (.selbank 31 1 1) (runs .accepted)) (fun t => t.bt.rega == 0x6D && t.seq.txbuf == [0x7F]) = true := by
  decide

/-- V98a. -/
theorem test_step_setaddr :
    after (exec (.setaddr 0x20) (runs .accepted)) (fun t => t.bt.rega == 0x6E && t.seq.txbuf == [0x20]) = true := by
  decide

/-- V27b: 17 bytes at (31, 240) pass the end of DMEM. -/
theorem test_step_upblk_illegal :
    shows (exec (.upblk 0 31 240 17 0) (runs .accepted)) 0x00020008 [] = true := by decide

/-- V20: the first chunk of 20 bytes at (0, 250) is 6 bytes. -/
theorem test_step_upblk :
    after (exec (.upblk 0 0 250 20 0) (runs .accepted)) (fun t =>
      t.fp.chunklen == 6 && t.fp.remain == 20 && t.seq.txbuf == [0x00] && t.bt.rega == 0x6D) = true := by decide

/-- V66: an empty image is over at once. -/
theorem test_step_upimg_empty :
    after (exec (.upimg 0 0 7) { runs .image with fp := { ProgRegs.zero 16 with ipos := 7, iend := 7 } }) (fun t =>
      t.seq.phase == .imageDone none) = true := by decide

/-- V61: data past IEND. -/
theorem test_step_upimg_malformed :
    after (exec (.upimg 0 5 0)
      { runs .image with
        fp := { ProgRegs.zero 16 with iend := 5 }, img := [(0, 0), (1, 0), (2, 4), (3, 1), (4, 2)] }) (fun t =>
      t.seq.phase == .imageDone (some .imageMalformed)) = true := by decide

/-- V71: the third wrong byte ends the identity check. -/
theorem test_step_setup_wrong :
    after (exec .setup
      { received (.cmd .identity (.r .stop2)) [0x00] with ae := { AcqRegs.zero 0 with idtry := 2 } }) (fun t =>
      t.ae.idtry == 3 && t.seq.phase == .ending (.fail .deviceNotResponding .ok)) = true := by decide

/-- V70: the expected byte. -/
theorem test_step_setup_right :
    after (exec .setup (received (.cmd .identity (.r .stop2)) [0x68])) (fun t =>
      t.ae.devstat == .connected && t.seq.phase == .image) = true := by decide

/-- V36: DEVSTAT = 0. -/
theorem test_step_rdsmp_notReady : shows (exec .rdsmp (runs .accepted)) 0x00020009 [] = true := by decide

/-- V35: 41 bytes are not enough. -/
theorem test_step_rdsmp_waits :
    after (exec .rdsmp (received (.cmd .fifoCount (.r .stop2)) [0x00, 0x29])) (fun t =>
      t.seq.phase == .cmd .fifoCount (.r .start1) && t.ae.fifocnt == 41) = true := by decide

/-- V37: N = 0, before the DEVSTAT check. -/
theorem test_step_rdavg_illegal : shows (exec (.rdavg 0) (runs .accepted)) 0x00020008 [] = true := by decide

/-- V30: the first FIFO wait of an average. -/
theorem test_step_rdavg :
    after (exec (.rdavg 2) (samples .accepted)) (fun t =>
      t.seq.phase == .cmd .fifoCount (.r .start1) && t.ae.avgn == 2 && t.ae.acc == accZero) = true := by decide

/-- V64: bank byte 32. -/
theorem test_step_recData_illegal :
    after (exec (.recData 0x20 0 [9]) (runs .image)) (fun t =>
      t.seq.phase == .imageDone (some .illegalOperand)) = true := by decide

/-- V68: the first chunk of five bytes at (4, 0xFE) is two bytes. -/
theorem test_step_recData :
    after (exec (.recData 4 0xFE [1, 2, 3, 4, 5]) (runs .image)) (fun t =>
      t.fp.chunklen == 2 && t.fp.srcptr == 3 && t.seq.txbuf == [0x04]) = true := by decide

/-- R209: INT_ENABLE_VALUE to RA_INT_ENABLE. -/
theorem test_step_recSpcInten :
    after (exec (.recSpcInten 7 8) (runs .image)) (fun t => t.bt.rega == 0x38 && t.seq.txbuf == [0x32]) = true := by
  decide

/-- The record after a special record is 4 bytes on. -/
theorem test_step_recSpcInten_done :
    after (exec (.recSpcInten 7 8) (runs (.record .intEnable (.w .data)))) (fun t =>
      t.fp.ipos == 4 && t.seq.phase == .image) = true := by decide

/-! ## ENV and CFG -/

/-- R95: RefDev completes the STOP of a read's phase 1, and of a command that has ended, before a move is taken. -/
theorem test_step_refDev_completes_the_stop :
    ([.cmd .rdb (.r .start2), .idle] : List Phase).all (fun p =>
      after (step { stopped p with moves := [.readHR 1] }) fun t =>
        !t.bt.stp && !t.bt.bb && t.moves == [.readHR 1] && t.seq.phase == p) = true := by decide

/-- R93: an idle block's pending STOP, and another master's BB, end under HardwareResolves. -/
theorem test_step_idle_hold_is_resolved :
    ([(true, true), (false, true), (true, false)] : List (Bool × Bool)).all (fun p =>
      after (step { State.reset with bt := { BusRegs.zero with stp := p.1, bb := p.2 } }) fun t =>
        !t.bt.stp && (!t.bt.bb || p.1)) = true := by decide

/-- R312 with R11: divisors that the laws make zero are refused as a literal zero is, and 0.5 is not. -/
theorem test_cfg_divisors :
    ([.ofInt 0, .ofDec 0 2, .add (.ofInt 0) (.ofInt 0), .div (.ofInt 0) (.ofInt 1)] : List Num).all (fun n =>
      !cfgLegal { Cfg.suggested with gyroSens := n } && !cfgLegal { Cfg.suggested with tempSlopeDiv := n } &&
        !cfgLegal { Cfg.suggested with accelLsbPerG := n }) = true ∧
      cfgLegal { Cfg.suggested with gyroSens := .ofDec 5 1 } = true := by decide

/-! ## Witnesses: a concrete state and operands that meet the hypotheses of each statement, clause by clause -/

/-- A state with a descriptor in CMDR. -/
def withCommand (d : Descriptor) (s : State) : State := { s with cmdr := d }

/-- The head of an image of one data record `1F FF 01 07`, run by UPIMG. -/
def atRecord : State :=
  withCommand 0x2100000004000000
    { runs .image with fp := { ProgRegs.zero 16 with iend := 4 }, img := [(0, 0x1F), (1, 0xFF), (2, 1), (3, 7)] }

/-- The end of an empty image, run by UPIMG. -/
def atImageEnd : State := withCommand 0x2100000000000000 (runs .image)

/-- The bytes 1, 2 in PBUF, on an accepted command with answers ready. -/
def sends (addr tx : List Answer) : State :=
  { runs .accepted (answers addr tx [] []) with pbuf := [(0, 1), (1, 2)] }

/-- An accepted read that is acknowledged, ready, and receives the bytes. -/
def reads (bytes : List Byte) : State := runs .accepted (answers [.ack, .ack, .ack] [.ack, .ack, .ack] bytes [true])

theorem test_witness_DecodeEncodeAgree :
    (Instr.recData 31 255 [1]).wellFormed = true ∧ (Instr.upblk 1 31 255 0xFFFF 0xFFFF).wellFormed = true := by decide

theorem test_witness_DecodedDescriptorReencodes : decodeDescriptor 0x3100000000000000 = .ok .rdsmp := by decide

theorem test_witness_DescriptorSelectsAtMostOneRow :
    ∃ r ∈ rows, (0x3100000000000000 : Descriptor) &&& r.mask = r.mtch := by decide

theorem test_witness_RecordDecodesAtHead :
    ((Instr.recData 1 0 [0xAA]).wellFormed = true ∧ encode (.recData 1 0 [0xAA]) = .record [1, 0, 1, 0xAA]) ∧
      decodeRecord [1, 0, 1, 0xAA, 0x77] = .ok (.recData 1 0 [0xAA], [0x77]) ∧
      decodeRecord [1, 0, 0, 1, 0x77] = .ok (.recSpcInten 1 0, [0x77]) := by decide

/-- A command before its image, and the two forms of the default turn: nothing scheduled, and `wait` while busy. -/
theorem test_witness_StepRunsTheDecodedInstruction_command :
    let s := withCommand 0x0100000000000000 (runs .accepted)
    (cfgLegal s.cfg = true ∧ s.seq.phase ≠ .idle) ∧ defaultDue s ∧ defaultDue { s with moves := [.wait] } ∧
      fetches s .init :=
  ⟨by decide, .inl rfl, .inr ⟨rfl, [], rfl⟩, .inl (by decide)⟩

theorem test_witness_StepRunsTheDecodedInstruction_record :
    (cfgLegal atRecord.cfg = true ∧ atRecord.seq.phase ≠ .idle) ∧ defaultDue atRecord ∧
      fetches atRecord (.recData 0x1F 0xFF [7]) :=
  ⟨by decide, .inl rfl, .inr (.inl ⟨rfl, [], by decide⟩)⟩

theorem test_witness_StepRunsTheDecodedInstruction_imageEnd :
    (cfgLegal atImageEnd.cfg = true ∧ atImageEnd.seq.phase ≠ .idle) ∧ defaultDue atImageEnd ∧
      fetches atImageEnd (.upimg 0 0 0) :=
  ⟨by decide, .inl rfl, .inr (.inr ⟨rfl, ⟨.headerCutShort, by decide⟩, by decide⟩)⟩

/-- An idle block with nothing scheduled: at rest, with another master on the bus, and with a STOP that RefDev
completes. -/
theorem test_witness_StepRunsTheDecodedInstruction_idle :
    ([State.reset, { State.reset with bt := { BusRegs.zero with bb := true } }, stopped .idle] : List State).all
      (fun s => cfgLegal s.cfg && s.moves.isEmpty && s.seq.phase == .idle) = true := by decide

/-- `block` at the head of the agenda, on an idle block and on one that runs INIT; `wait` on an idle block. -/
theorem test_witness_StepRunsTheDecodedInstruction_agenda :
    let s := { withCommand 0x0100000000000000 (runs .accepted) with moves := [.block] }
    (agendaTurn (given .block) ∧ (given .block).moves = [.block] ∧ (given .block).seq.phase = .idle) ∧
      (agendaTurn s ∧ s.moves = [.block] ∧ s.seq.phase ≠ .idle ∧ fetches s .init) ∧
      agendaTurn (given .wait) ∧ (given .wait).moves = [.wait] ∧ (given .wait).busy = false :=
  ⟨⟨⟨by decide, rfl⟩, rfl, rfl⟩, ⟨⟨by decide, rfl⟩, rfl, nofun, .inl (by decide)⟩, ⟨by decide, rfl⟩, rfl, rfl⟩

/-- The two ways in which ENV lifts the hold first: HardwareResolves, and RefDev with a STOP to complete. -/
theorem test_witness_StepRunsTheDecodedInstruction_held :
    let s := withCommand 0x03683B0004000000
      { runs (.cmd .rdb (.r .start2)) with bt := { BusRegs.zero with bb := true, stp := true } }
    let u := withCommand 0x03683B0004000000 (stopped (.cmd .rdb (.r .start2)))
    s.held = true ∧ s.env.resolves = true ∧ decodeDescriptor s.cmdr = .ok (.rdb 0x68 0x3B 4) ∧ u.held = true ∧
      u.env.dev.isSome = true ∧ u.bt.stp = true ∧ u.env.resolves = false := by decide

theorem test_witness_IllegalCommandEndsAtOnce :
    let s := { runs .accepted with moves := [.block] }
    cfgLegal (runs .accepted).cfg = true ∧ defaultDue (runs .accepted) ∧ accepted (runs .accepted) ∧
      decodeDescriptor (runs .accepted).cmdr = .error (.reservedOpcode 0) ∧ accepted s ∧ s.moves = [.block] :=
  ⟨by decide, .inl rfl, rfl, by decide, rfl, rfl⟩

theorem test_witness_CommandWriteLatchesAndStarts :
    let s := given (.writeHR 0 0x0100000000000000)
    agendaTurn s ∧ s.moves = [.writeHR 0 0x0100000000000000] ∧ s.busy = false := ⟨⟨by decide, rfl⟩, rfl, rfl⟩

theorem test_witness_HostWritesAreRefusedOrIgnored :
    agendaTurn (givenBusy (.writeHR 0 0)) ∧ agendaTurn (given (.writeHR 1 0)) ∧
      (givenBusy (.writeHR 0 0)).busy = true ∧ (givenBusy (.writeHR 0 0)).moves = [.writeHR 0 0] ∧
      (givenBusy (.writePBUF 0 0)).moves = [.writePBUF 0 0] ∧ (givenBusy (.writeIMG 0 0)).moves = [.writeIMG 0 0] ∧
      (givenBusy (.readPBUF 63)).moves = [.readPBUF 63] ∧ (given (.writeHR 1 0)).moves = [.writeHR 1 0] ∧
      (given (.writeHR 19 0)).moves = [.writeHR 19 0] ∧ (given (.writeHR 20 0)).moves = [.writeHR 20 0] ∧
      (given (.readHR 0)).moves = [.readHR 0] ∧ (given (.readHR 19)).moves = [.readHR 19] ∧
      (given (.readHR 20)).moves = [.readHR 20] ∧ (given (.readPBUF 63)).moves = [.readPBUF 63] ∧
      (given (.readPBUF 63)).busy = false ∧ 63 < (given (.readPBUF 63)).cfg.pbufSize :=
  ⟨⟨by decide, rfl⟩, ⟨by decide, rfl⟩, by decide⟩

theorem test_witness_HostWritesStoreOneByte :
    agendaTurn (given (.writePBUF 63 5)) ∧ agendaTurn (given (.writeIMG 4095 5)) ∧
      (given (.writePBUF 63 5)).busy = false ∧ 63 < (given (.writePBUF 63 5)).cfg.pbufSize ∧
      4095 < (given (.writeIMG 4095 5)).cfg.imgSize ∧ (given (.writePBUF 63 5)).moves = [.writePBUF 63 5] ∧
      (given (.writeIMG 4095 5)).moves = [.writeIMG 4095 5] := ⟨⟨by decide, rfl⟩, ⟨by decide, rfl⟩, by decide⟩

theorem test_witness_StopCompleteClearsStopAndBusy :
    let s := { given .stopComplete with bt := { BusRegs.zero with stp := true, bb := true } }
    agendaTurn s ∧ s.moves = [.stopComplete] ∧ s.bt.stp = true ∧ (given .stopComplete).bt.stp = false ∧
      (let u := stopped .idle
       cfgLegal u.cfg = true ∧ u.env.dev.isSome = true ∧ u.bt.stp = true ∧ u.seq.phase = .idle) ∧
      (stopped (.cmd .rdb (.r .start2))).held = true := ⟨⟨by decide, rfl⟩, by decide⟩

theorem test_witness_ForeignMastersMoveBusyOnly :
    let s := given .foreignBusy
    let t := { given .foreignIdle with bt := { BusRegs.zero with bb := true } }
    agendaTurn s ∧ agendaTurn t ∧ s.moves = [.foreignBusy] ∧ s.bt.bb = false ∧ s.inTransaction = false ∧
      t.moves = [.foreignIdle] ∧ t.bt.bb = true ∧ t.inTransaction = false :=
  ⟨⟨by decide, rfl⟩, ⟨by decide, rfl⟩, by decide⟩

theorem test_witness_ResetBlockRestoresResetValues :
    agendaTurn (givenBusy .resetBlock) ∧ (givenBusy .resetBlock).moves = [.resetBlock] := ⟨⟨by decide, rfl⟩, rfl⟩

theorem test_witness_ResetStateIsIdle : cfgLegal (State.afterReset Cfg.suggested 1).cfg = true := by decide

theorem test_witness_StatusAndResultShowTheirBits :
    State.reset.busy = false ∧ (givenBusy .wait).busy = true ∧ 0 < 11 ∧ 10 < 11 := by decide

theorem test_witness_EveryInstructionHasANextState :
    [(Instr.init, Phase.accepted), (.wrb 0 0 0, .cmd .wrb (.w .data)), (.rdb 0 0 1, .cmd .rdb (.r .timeout)),
      (.rdbit 0 0 7, .cmd .rdbit (.r .stop2)), (.wrbit 0 0 7 1, .cmd .rmwWrite (.w .start)),
      (.wrbf 0 0 7 1 0, .cmd .rmwRead (.r .poll)), (.dwb 0 0, .cmd .devWrite (.w .nackStop)),
      (.dwbf 0 7 1 0, .ending (.succeed false)), (.selbank 31 1 1, .cmd .devWrite (.w .reg)),
      (.setaddr 255, .ending (.fail .busNack .ok)), (.upblk 1 31 255 1 0, .cmd .upVRead (.r .rx)),
      (.upimg 1 4 0, .image), (.setup, .imageDone none), (.rdsmp, .cmd .packet (.r .stop2)),
      (.rdavg 1, .cmd .ovfWrite (.w .payloadStop)), (.recData 31 255 [0], .record .upData (.w .data)),
      (.recSpcInten 0 0, .record .intEnable (.w .start))].all (fun p => phaseFits p.1 p.2) = true ∧
      (let s := { runs (.record .intEnable (.w .start)) with bt := { BusRegs.zero with bb := true } }
       xferStep s (.w .start) = .hold) ∧
      (∃ u, xferStep (runs (.cmd .rdb (.r .stop1))) (.r .stop1) = .go (.r .start2) u) ∧
      (∃ u, xferStep (received (.cmd .temp (.r .stop2)) [1, 2]) (.r .stop2) = .done (.ok [1, 2]) u) ∧
      ∃ u, xferStep (runs (.cmd .rdb (.r .timeout))) (.r .timeout) = .done (.fail .busTimeout) u :=
  ⟨by decide, rfl, ⟨_, rfl⟩, ⟨_, rfl⟩, ⟨_, rfl⟩⟩

/-- A byte or a poll at a call site, with each answer ready, and the places after them. -/
theorem test_witness_EveryInstructionHasANextState_answers :
    let s := fun (p : Phase) (a : Answer) => runs p (answers [] [a] [] [])
    (∀ p a, byteSent (s p a) (.r .reg) = some 0 ∧ byteSent (s p a) (.w .reg) = some 0 ∧
      (s p a).env.tx = a :: []) ∧
      (byteSent (unsent (.cmd .wrb (.w .data))) (.w .data) = some 0x44 ∧
        (unsent (.cmd .wrb (.w .data))).env.tx = .arblost :: []) ∧
      (∀ p v, (runs p (answers [] [] [] [v])).env.ready = v :: []) ∧
      [(Instr.setup, Phase.cmd .identity (.r .reg)), (.wrb 0 0 1, .cmd .wrb (.w .data)), (.rdsmp, .cmd .temp (.r .poll)),
        (.recSpcInten 0 0, .record .intEnable (.w .nackStop)), (.dwb 0 0, .cmd .devWrite (.w .payloadStop)),
        (.rdbit 0 0 7, .cmd .rdbit (.r .nackStop)), (.rdb 0 0 1, .cmd .rdb (.r .stop1)),
        (.recData 0 0 [1], .record .upVRead (.r .timeout))].all (fun p => phaseFits p.1 p.2) = true :=
  ⟨fun _ _ => ⟨rfl, rfl, rfl⟩, ⟨rfl, rfl⟩, fun _ _ => rfl, by decide⟩

theorem test_witness_StartIsHeldUntilTheBusIsFree :
    phaseFits (.wrb 0 0 0) (.cmd .wrb (.w .start)) = true ∧ (XferAt.w .start).atStart = true ∧
      phaseFits (.recData 0 0 [0]) (.record .upVRead (.r .start2)) = true ∧ (XferAt.r .start2).atStart = true ∧
      busFree (runs (.cmd .wrb (.w .start)) (answers [.arblost] [] [] [])) ∧
      (runs (.cmd .wrb (.w .start)) (answers [.ack] [] [] [])).env.addr = .ack :: [] ∧
      (runs (.record .upVRead (.r .start2)) (answers [.nack] [] [] [])).env.addr = .nack :: [] ∧
      { runs (.cmd .wrb (.w .start)) with bt := { BusRegs.zero with bb := true } }.bt.bb = true ∧
      phaseFits .setup (.cmd .identity (.r .start1)) = true ∧ (XferAt.r .start1).atStart = true ∧
      ((0 : BitVec 16) + 1).toNat ≠ Cfg.suggested.idRetryMax ∧ ((2 : BitVec 16) + 1).toNat = Cfg.suggested.idRetryMax :=
  ⟨by decide, by decide, by decide, by decide, ⟨rfl, rfl⟩, rfl, rfl, rfl, by decide, by decide, by decide, by decide⟩

theorem test_witness_EndingWritesResultAndBusyOnly :
    Instr.init.isCommand = true ∧ (runs (.ending (.fail .dmpInitFailed .busNack))).seq.phase =
      .ending (.fail .dmpInitFailed .busNack) ∧ (runs (.ending (.succeed true))).seq.phase = .ending (.succeed true) := by
  decide

theorem test_witness_IllegalOperandsAreRefused :
    accepted (runs .accepted) ∧
      ([.wrb 0 0 65, .rdb 0 0 0, .rdb 0 0 65, .wrbf 0 0 0 0 0, .wrbf 0 0 0 9 0, .wrbf 0 0 6 3 0, .dwbf 0 1 8 0,
        .upblk 0 0 0 1 4096, .upblk 0 31 255 2 0, .upimg 0 4097 0, .rdavg 0] : List Instr).all
        (fun i => i.isCommand && !operandsLegal (runs .accepted).cfg i) = true := ⟨rfl, by decide⟩

theorem test_witness_CommandsThatAreNotReadyAreRefused :
    let s := { runs .accepted with bt := BusRegs.zero }
    accepted s ∧ s.bt.initd = false ∧ s.ae.devstat ≠ .dmpReady ∧
      ([.wrb 0 0 64, .rdb 0 0 64, .rdbit 0 0 0, .wrbit 0 0 0 0, .wrbf 0 0 0 8 0, .dwb 0 0, .dwbf 0 7 1 0,
        .selbank 0 0 0, .setaddr 0, .upblk 0 31 255 1 4095, .upimg 0 4096 0, .rdsmp, .rdavg 1] : List Instr).all
        (fun i => operandsLegal s.cfg i && (checksInit i || readsSample i)) = true :=
  ⟨rfl, rfl, by decide, by decide⟩

theorem test_witness_InitResetsInitialisesAndSucceeds : accepted (runs .accepted) := rfl

theorem test_witness_WrbSendsItsPayload :
    let s := sends [.ack] [.ack, .ack, .ack]
    accepted s ∧ s.bt.initd = true ∧ busFree s ∧ (2 : BitVec 16).toNat ≤ s.cfg.pbufSize ∧ s.env.addr = .ack :: [] ∧
      s.env.tx = List.replicate ((2 : BitVec 16).toNat + 1) .ack ++ [] :=
  ⟨rfl, rfl, ⟨rfl, rfl⟩, by decide, rfl, rfl⟩

theorem test_witness_WrbGivesUpAfterOneRetry :
    (∀ addr tx, accepted (sends addr tx) ∧ (sends addr tx).bt.initd = true ∧ busFree (sends addr tx) ∧
      (64 : BitVec 16).toNat ≤ (sends addr tx).cfg.pbufSize) ∧
      FirstNack.address.answers (.nack :: []) [] (sends [.nack, .nack] []).env ∧
      FirstNack.address.answers (.ack :: []) (.nack :: []) (sends [.nack, .ack] [.nack]).env ∧
      FirstNack.register.answers (.nack :: []) [] (sends [.ack, .nack] [.nack]).env ∧
      FirstNack.register.answers (.ack :: []) (.nack :: []) (sends [.ack, .ack] [.nack, .nack]).env :=
  ⟨fun _ _ => ⟨rfl, rfl, ⟨rfl, rfl⟩, Nat.le_of_ble_eq_true rfl⟩, ⟨rfl, rfl⟩, ⟨rfl, rfl⟩, ⟨rfl, rfl⟩, ⟨rfl, rfl⟩⟩

theorem test_witness_WrbRetryCanSucceed :
    (∀ addr tx, accepted (sends addr tx) ∧ (sends addr tx).bt.initd = true ∧ busFree (sends addr tx) ∧
      (0 : BitVec 16).toNat ≤ (sends addr tx).cfg.pbufSize) ∧
      FirstNack.address.answers (.ack :: []) (List.replicate ((0 : BitVec 16).toNat + 1) .ack ++ [])
        (sends [.nack, .ack] [.ack]).env ∧
      FirstNack.register.answers (.ack :: []) (List.replicate ((0 : BitVec 16).toNat + 1) .ack ++ [])
        (sends [.ack, .ack] [.nack, .ack]).env :=
  ⟨fun _ _ => ⟨rfl, rfl, ⟨rfl, rfl⟩, Nat.le_of_ble_eq_true rfl⟩, ⟨rfl, rfl⟩, ⟨rfl, rfl⟩⟩

theorem test_witness_WrbPayloadNackAborts :
    let s := sends [.ack] [.ack, .ack, .nack]
    (∀ addr tx, accepted (sends addr tx) ∧ (sends addr tx).bt.initd = true ∧ busFree (sends addr tx) ∧
      (2 : BitVec 16).toNat ≤ (sends addr tx).cfg.pbufSize) ∧ 0 < (2 : BitVec 16).toNat ∧ 1 < (2 : BitVec 16).toNat ∧
      s.env.addr = .ack :: [] ∧ s.env.tx = List.replicate (1 + 1) .ack ++ .nack :: [] ∧
      FirstNack.address.answers (.ack :: []) (List.replicate (0 + 1) .ack ++ .nack :: [])
        (sends [.nack, .ack] [.ack, .nack]).env ∧
      FirstNack.register.answers (.ack :: []) (List.replicate (1 + 1) .ack ++ .nack :: [])
        (sends [.ack, .ack] [.nack, .ack, .ack, .nack]).env :=
  ⟨fun _ _ => ⟨rfl, rfl, ⟨rfl, rfl⟩, Nat.le_of_ble_eq_true rfl⟩, by decide, by decide, rfl, rfl, ⟨rfl, rfl⟩, ⟨rfl, rfl⟩⟩

theorem test_witness_WrbStopsOnArbitrationLoss :
    (∀ addr tx, accepted (sends addr tx) ∧ (sends addr tx).bt.initd = true ∧ busFree (sends addr tx) ∧
      (2 : BitVec 16).toNat ≤ (sends addr tx).cfg.pbufSize) ∧
      (sends [.arblost] []).env.addr = .arblost :: [] ∧
      (sends [.ack] [.arblost]).env.addr = .ack :: [] ∧ (sends [.ack] [.arblost]).env.tx = .arblost :: [] ∧
      1 < (2 : BitVec 16).toNat ∧
      (sends [.ack] [.ack, .ack, .arblost]).env.tx = List.replicate (1 + 1) .ack ++ .arblost :: [] ∧
      FirstNack.address.answers (.arblost :: []) [] (sends [.nack, .arblost] []).env ∧
      FirstNack.register.answers (.arblost :: []) [] (sends [.ack, .arblost] [.nack]).env ∧
      FirstNack.address.answers (.ack :: []) (.arblost :: []) (sends [.nack, .ack] [.arblost]).env ∧
      FirstNack.register.answers (.ack :: []) (.arblost :: []) (sends [.ack, .ack] [.nack, .arblost]).env ∧
      FirstNack.address.answers (.ack :: []) (List.replicate (1 + 1) .ack ++ .arblost :: [])
        (sends [.nack, .ack] [.ack, .ack, .arblost]).env ∧
      FirstNack.register.answers (.ack :: []) (List.replicate (1 + 1) .ack ++ .arblost :: [])
        (sends [.ack, .ack] [.nack, .ack, .ack, .arblost]).env :=
  ⟨fun _ _ => ⟨rfl, rfl, ⟨rfl, rfl⟩, Nat.le_of_ble_eq_true rfl⟩, rfl, rfl, rfl, by decide, rfl, ⟨rfl, rfl⟩, ⟨rfl, rfl⟩,
    ⟨rfl, rfl⟩, ⟨rfl, rfl⟩, ⟨rfl, rfl⟩, ⟨rfl, rfl⟩⟩

theorem test_witness_RdbStoresWhatItReceives :
    let s := reads [0xDE, 0xAD]
    accepted s ∧ s.bt.initd = true ∧ busFree s ∧ 1 ≤ (2 : BitVec 16).toNat ∧ (2 : BitVec 16).toNat ≤ s.cfg.pbufSize ∧
      ([0xDE, 0xAD] : List Byte).length = (2 : BitVec 16).toNat ∧ s.env.addr = .ack :: .ack :: [.ack] ∧
      s.env.tx = .ack :: [.ack, .ack] ∧ s.env.ready = true :: [] ∧ s.env.rx = [0xDE, 0xAD] ++ [] :=
  ⟨rfl, rfl, ⟨rfl, rfl⟩, by decide, by decide, rfl, rfl, rfl, rfl, rfl⟩

theorem test_witness_RdbRecoversFromTimeout :
    let s := runs .accepted (answers [.ack] [.ack] [] [false])
    accepted s ∧ s.bt.initd = true ∧ busFree s ∧ 1 ≤ (64 : BitVec 16).toNat ∧ (64 : BitVec 16).toNat ≤ s.cfg.pbufSize ∧
      s.env.addr = .ack :: [] ∧ s.env.tx = .ack :: [] ∧ s.env.ready = false :: [] :=
  ⟨rfl, rfl, ⟨rfl, rfl⟩, by decide, by decide, rfl, rfl, rfl⟩

theorem test_witness_RdbDoesNotRetry :
    let s := fun addr tx => runs .accepted (answers addr tx [] [true])
    (∀ addr tx, accepted (s addr tx) ∧ (s addr tx).bt.initd = true ∧ busFree (s addr tx) ∧
      1 ≤ (1 : BitVec 16).toNat ∧ (1 : BitVec 16).toNat ≤ (s addr tx).cfg.pbufSize ∧
      (s addr tx).env.ready = true :: []) ∧
      (s [.nack] []).env.addr = .nack :: [] ∧
      (s [.ack] [.nack]).env.addr = .ack :: [] ∧ (s [.ack] [.nack]).env.tx = .nack :: [] ∧
      (s [.ack, .nack] [.ack]).env.addr = .ack :: .nack :: [] ∧ (s [.ack, .nack] [.ack]).env.tx = .ack :: [] ∧
      (s [.arblost] []).env.addr = .arblost :: [] ∧
      (s [.ack] [.arblost]).env.addr = .ack :: [] ∧ (s [.ack] [.arblost]).env.tx = .arblost :: [] ∧
      (s [.ack, .arblost] [.ack]).env.addr = .ack :: .arblost :: [] ∧
      (s [.ack, .arblost] [.ack]).env.tx = .ack :: [] :=
  ⟨fun _ _ => ⟨rfl, rfl, ⟨rfl, rfl⟩, by decide, Nat.le_of_ble_eq_true rfl, rfl⟩, rfl, rfl, rfl, rfl, rfl, rfl, rfl, rfl, rfl,
    rfl⟩

theorem test_witness_RdbitReturnsTheBit :
    let s := reads [0x40]
    accepted s ∧ s.bt.initd = true ∧ busFree s ∧ s.env.addr = .ack :: .ack :: [.ack] ∧ s.env.tx = .ack :: [.ack, .ack] ∧
      s.env.ready = true :: [] ∧ s.env.rx = 0x40 :: [] := ⟨rfl, rfl, ⟨rfl, rfl⟩, rfl, rfl, rfl, rfl⟩

theorem test_witness_RdbitReturnsTheBit_failure :
    commandFails (.rdbit 0x68 0x6B 7) (samples (.cmd .rdbit (.r .timeout))) .rdbit (.r .timeout) .busTimeout ∧
      failsAt .rdbit := ⟨⟨rfl, rfl, rfl, rfl⟩, failsAt_all _⟩

theorem test_witness_ReadModifyWriteCompletes :
    let s := reads [0xE7]
    (rmwOperands s.cfg (.wrbf 0x68 0x1B 3 2 3) = some (0x68, 0x1B, 3, 2, 3) ∧
      operandsLegal s.cfg (.wrbf 0x68 0x1B 3 2 3) = true) ∧
      (rmwOperands s.cfg (.wrbit 0x68 0x6B 7 1) = some (0x68, 0x6B, 7, 1, 1) ∧
        operandsLegal s.cfg (.wrbit 0x68 0x6B 7 1) = true) ∧
      (rmwOperands s.cfg (.dwbf 0x6A 0 8 1) = some (0x68, 0x6A, 0, 8, 1) ∧
        operandsLegal s.cfg (.dwbf 0x6A 0 8 1) = true) ∧
      accepted s ∧ s.bt.initd = true ∧ busFree s ∧ s.env.addr = .ack :: .ack :: .ack :: [] ∧
      s.env.tx = .ack :: .ack :: .ack :: [] ∧ s.env.ready = true :: [] ∧ s.env.rx = 0xE7 :: [] :=
  ⟨by decide, by decide, by decide, rfl, rfl, ⟨rfl, rfl⟩, rfl, rfl, rfl, rfl⟩

theorem test_witness_ReadModifyWriteCompletes_failure :
    commandFails (.wrbf 0x68 0x1B 3 2 3) (samples (.cmd .rmwRead (.r .nackStop))) .rmwRead (.r .nackStop) .busNack ∧
      commandFails (.wrbit 0x68 0x6B 7 1) (samples (.cmd .rmwWrite (.w .payloadStop))) .rmwWrite (.w .payloadStop)
        .busNack ∧
      commandFails (.dwbf 0x6A 0 8 1) (samples (.cmd .rmwRead (.r .timeout))) .rmwRead (.r .timeout) .busTimeout ∧
      failsAt .rmwRead ∧ writeFailsAt .rmwWrite :=
  ⟨⟨rfl, rfl, rfl, rfl⟩, ⟨rfl, rfl, rfl, rfl⟩, ⟨rfl, rfl, rfl, rfl⟩, failsAt_all _, writeFailsAt_all _⟩

theorem test_witness_FieldInsertReplacesTheFieldOnly : 1 ≤ 8 ∧ 0 + 8 ≤ 8 ∧ 1 ≤ 1 ∧ 7 + 1 ≤ 8 := by decide

theorem test_witness_DeviceWritesComplete :
    let s := runs .accepted (answers [.ack] [.ack, .ack] [] [])
    devWriteOperands s.cfg (.dwb 0x6B 0) = some (0x6B, 0) ∧
      devWriteOperands s.cfg (.selbank 31 1 1) = some (0x6D, 0x7F) ∧
      devWriteOperands s.cfg (.setaddr 0xFF) = some (0x6E, 0xFF) ∧ accepted s ∧ s.bt.initd = true ∧ busFree s ∧
      s.env.addr = .ack :: [] ∧ s.env.tx = .ack :: .ack :: [] :=
  ⟨by decide, by decide, by decide, rfl, rfl, ⟨rfl, rfl⟩, rfl, rfl⟩

theorem test_witness_DeviceWritesComplete_failure :
    (let s := runs (.cmd .devWrite (.w .nackStop))
     s.seq.phase = .cmd .devWrite (.w .nackStop) ∧ s.bt.retry = false) ∧
      ([.dwb 0x6B 0, .selbank 31 1 1, .setaddr 0xFF] : List Instr).all (fun i => ownsSite i .devWrite) = true ∧
      commandFails (.dwb 0x6B 0) (retried (.cmd .devWrite (.w .nackStop))) .devWrite (.w .nackStop) .busNack ∧
      writeFailsAt .devWrite :=
  ⟨⟨rfl, rfl⟩, by decide, ⟨rfl, rfl, rfl, rfl, rfl⟩, writeFailsAt_all _⟩

theorem test_witness_BankByteAndChunkLength : 1 ≤ 16 ∧ 1 ≤ 20 ∧ 255 ≤ 255 := by decide

theorem test_witness_UpblkEntersItsFirstChunk :
    let s := runs .accepted
    accepted s ∧ s.bt.initd = true ∧ operandsLegal s.cfg (.upblk 1 31 255 1 4095) = true ∧
      operandsLegal s.cfg (.upblk 0 31 255 0 4096) = true ∧ 1 ≤ s.cfg.chunk ∧ s.cfg.chunk ≤ 256 :=
  ⟨rfl, rfl, by decide, by decide, by decide, by decide⟩

theorem test_witness_UpblkAdvancesChunkByChunk :
    let s := uploads (.cmd .upData (.w .data))
    let last := { uploads (.record .upData (.w .data)) with fp := { s.fp with remain := 6 } }
    let v := verifies (.record .upVRead (.r .stop2))
    chunkInv s ∧ chunkInv last ∧ chunkInv v ∧ chunkInv (verifies (.cmd .upVRead (.r .stop2))) ∧
      cfgLegal s.cfg = true ∧ s.seq.phase = .cmd .upData (.w .data) ∧ s.fp.verify = false ∧ v.fp.verify = true ∧
      v.seq.phase = .record .upVRead (.r .stop2) ∧
      v.seq.rbuf = v.imgBytes v.fp.srcptr.toNat v.fp.chunklen.toNat ∧
      ∀ (here : Site → XferAt → Phase) (k : Site), (uploads (here k (.w .data))).seq.phase = here k (.w .data) ∧
        (uploads (here k (.w .data))).seq.txbuf = [] ∧ (verifies (here k (.w .data))).seq.txbuf = [] :=
  ⟨by unfold chunkInv; decide, by unfold chunkInv; decide, by unfold chunkInv; decide, by unfold chunkInv; decide,
    by decide, rfl, rfl, rfl, rfl, by decide, fun _ _ => ⟨rfl, rfl, rfl⟩⟩

theorem test_witness_UpblkUploadsTheWholeBlock :
    let s := withCommand 0x201FFF0001000000
      (runs .accepted (answers (List.replicate 3 .ack) (List.replicate 6 .ack) [] []))
    cfgLegal s.cfg = true ∧ s.moves = [] ∧ s.env.resolves = true ∧ accepted s ∧ s.bt.initd = true ∧ busFree s ∧
      decodeDescriptor s.cmdr = .ok (.upblk 0 31 255 1 0) ∧ operandsLegal s.cfg (.upblk 0 31 255 1 0) = true ∧
      (∀ a ∈ s.env.addr, a = .ack) ∧ 3 * (1 : BitVec 16).toNat ≤ s.env.addr.length ∧ (∀ a ∈ s.env.tx, a = .ack) ∧
      6 * (1 : BitVec 16).toNat ≤ s.env.tx.length :=
  ⟨by decide, rfl, rfl, rfl, rfl, ⟨rfl, rfl⟩, by decide, by decide, by decide, by decide, by decide, by decide⟩

theorem test_witness_UpblkVerifyMismatchFails :
    (∀ here : Site → XferAt → Phase,
      (misread (here .upVRead (.r .stop2))).seq.phase = here .upVRead (.r .stop2) ∧
      (misread (here .upVRead (.r .stop2))).seq.rbuf ≠
        (misread (here .upVRead (.r .stop2))).imgBytes
          (misread (here .upVRead (.r .stop2))).fp.srcptr.toNat
          (misread (here .upVRead (.r .stop2))).fp.chunklen.toNat) ∧
      Site.upVRead.ofUpload = true ∧ siteMatches .upVRead (.r .timeout) = true ∧ failsAt .upVRead ∧
      Site.upData.ofUpload = true ∧ siteMatches .upData (.w .payloadStop) = true ∧
      (∀ here : Site → XferAt → Phase,
        xferFails (uploads (here .upData (.w .payloadStop))) (.w .payloadStop) .busNack) :=
  ⟨fun _ => ⟨rfl, fun h => absurd (show (6 : Byte) = 9 from (List.cons.inj h).1) (by decide)⟩, rfl, rfl, failsAt_all _, rfl, rfl, fun _ => rfl⟩

theorem test_witness_UpimgEntersAndLeavesItsImage :
    accepted (runs .accepted) ∧ (runs .accepted).bt.initd = true ∧
      (0 : BitVec 16).toNat + (4096 : BitVec 16).toNat ≤ (runs .accepted).cfg.imgSize ∧
      (runs (.imageDone none)).seq.phase = .imageDone none ∧
      (runs (.imageDone (some .imageMalformed))).seq.phase = .imageDone (some .imageMalformed) :=
  ⟨rfl, rfl, by decide, rfl, rfl⟩

/-- The head of the record loop at IMG 0 with these bytes up to IEND: none, two, a special record without its opcode, a
data record one byte short, and a special record with opcode 2. -/
theorem test_witness_UpimgEntersAndLeavesItsImage_head :
    let at0 := fun (bytes : List Byte) =>
      { runs .image with fp := { ProgRegs.zero 16 with iend := BitVec.ofNat 17 bytes.length },
                         img := Memory.writeAll [] 0 bytes }
    runsImage .setup = true ∧ runsImage (.upimg 1 4 0) = true ∧ (∀ bytes, (at0 bytes).seq.phase = .image) ∧
      (at0 []).fp.iend.toNat - (at0 []).fp.ipos.toNat = 0 ∧
      (at0 [0, 0]).fp.iend.toNat - (at0 [0, 0]).fp.ipos.toNat = 2 ∧
      ((at0 [0, 0, 0]).fp.iend.toNat - (at0 [0, 0, 0]).fp.ipos.toNat = 3 ∧ (at0 [0, 0, 0]).imgByte 2 = 0) ∧
      ((at0 [0, 0, 2, 9]).fp.iend.toNat - (at0 [0, 0, 2, 9]).fp.ipos.toNat = 4 ∧ (at0 [0, 0, 2, 9]).imgByte 2 = 2) ∧
      ((at0 [0, 0, 0, 2]).fp.iend.toNat - (at0 [0, 0, 0, 2]).fp.ipos.toNat = 4 ∧ (at0 [0, 0, 0, 2]).imgByte 2 = 0 ∧
        (at0 [0, 0, 0, 2]).imgByte 3 = 2 ∧ fetchRecord (at0 [0, 0, 0, 2]) = .error (.badSpecialOpcode 2)) :=
  ⟨rfl, rfl, fun _ => rfl, by decide, by decide, by decide, by decide, by decide⟩

theorem test_witness_RecDataUploadsItsBlock :
    (runs .image).seq.phase = .image ∧ 1 ≤ ([9] : List Byte).length ∧ ([9] : List Byte).length ≤ 255 ∧
      31 < (0x20 : Byte).toNat ∧
      8192 < (0x1F : Byte).toNat * 256 + (0xFF : Byte).toNat + ([9, 9] : List Byte).length ∧
      (0x1F : Byte).toNat * 256 + (0xFF : Byte).toNat + ([9] : List Byte).length ≤ 8192 ∧
      1 ≤ (runs .image).cfg.chunk ∧ (runs .image).cfg.chunk ≤ 256 ∧
      (let s := { uploads (.record .upData (.w .data)) with
        fp := { ProgRegs.zero 16 with remain := 6, chunklen := 6 } }
       s.seq.phase = .record .upData (.w .data) ∧ s.seq.txbuf = [] ∧ s.fp.verify = false ∧
        s.fp.chunklen.toNat = s.fp.remain.toNat) := by decide

theorem test_witness_RecSpcIntenEnablesInterrupts :
    let s := runs .image (answers [.ack] [.ack, .ack] [] [])
    (s.seq.phase = .image ∧ busFree s ∧ s.env.addr = .ack :: [] ∧ s.env.tx = .ack :: .ack :: []) ∧
      (runs (.record .intEnable (.w .payloadStop))).seq.phase = .record .intEnable (.w .payloadStop) ∧
      xferFails (runs (.record .intEnable (.w .payloadStop))) (.w .payloadStop) .busNack ∧
      xferFails (retried (.record .intEnable (.w .nackStop))) (.w .nackStop) .busNack ∧
      xferFails (unsent (.record .intEnable (.w .data))) (.w .data) .arbLost :=
  ⟨⟨rfl, ⟨rfl, rfl⟩, rfl, rfl⟩, rfl, rfl, ⟨rfl, rfl⟩, ⟨nofun, ⟨[], rfl⟩, rfl⟩⟩

theorem test_witness_SetupMovesDeviceStatus :
    accepted (runs .accepted) ∧
      (let s := received (.cmd .identity (.r .stop2)) [0x68]
       s.seq.phase = .cmd .identity (.r .stop2) ∧ s.seq.rbuf = [0x68] ∧ (0x68 : Byte) = s.cfg.idExpected ∧
        (0x69 : Byte) ≠ s.cfg.idExpected ∧ s.ae.idtry.toNat + 1 < s.cfg.idRetryMax ∧ s.cfg.idRetryMax ≤ 65535) ∧
      (let s := { received (.cmd .identity (.r .stop2)) [0x69] with ae := { AcqRegs.zero 0 with idtry := 2 } }
       s.ae.idtry.toNat + 1 = s.cfg.idRetryMax ∧ s.seq.rbuf = [0x69]) ∧
      failsAt .identity ∧
      (runs (.imageDone none)).seq.phase = .imageDone none ∧
      (runs (.imageDone (some .busNack))).seq.phase = .imageDone (some .busNack) :=
  ⟨rfl, by decide, by decide, failsAt_all _, rfl, rfl⟩

theorem test_witness_FifoWaitAndOverflow :
    readsSample .rdsmp = true ∧ readsSample (.rdavg 1) = true ∧ accepted (samples .accepted) ∧
      operandsLegal (samples .accepted).cfg (.rdavg 1) = true ∧ (samples .accepted).ae.devstat = .dmpReady ∧
      (received (.cmd .fifoCount (.r .stop2)) [0x00, 0x29]).seq.rbuf = [0x00, 0x29] ∧
      (0x00 : Byte).toNat * 256 + (0x29 : Byte).toNat < 42 ∧ 42 ≤ (0x00 : Byte).toNat * 256 + (0x2A : Byte).toNat ∧
      (let s := { received (.cmd .intStatus (.r .stop2)) [0x10] with ae := { AcqRegs.zero 0 with fifocnt := 1023 } }
       s.seq.rbuf = [0x10] ∧ (0x10 : Byte) &&& s.cfg.dev.fifoOflowMask ≠ 0 ∧
        (0xEF : Byte) &&& s.cfg.dev.fifoOflowMask = 0 ∧ s.ae.fifocnt.toNat < s.cfg.fifoOvfThreshold) ∧
      Cfg.suggested.fifoOvfThreshold ≤ (1024 : BitVec 16).toNat :=
  ⟨rfl, rfl, rfl, by decide, rfl, rfl, by decide, by decide, by decide, by decide⟩

theorem test_witness_OverflowResetsTheFifoOnce :
    readsSample .rdsmp = true ∧
      (received (.cmd .ovfRead (.r .stop2)) [0xC0]).seq.phase = .cmd .ovfRead (.r .stop2) ∧
      (received (.cmd .ovfRead (.r .stop2)) [0xC0]).seq.rbuf = [0xC0] ∧
      (samples (.cmd .ovfWrite (.w .data))).seq.phase = .cmd .ovfWrite (.w .data) ∧
      (samples (.cmd .ovfWrite (.w .data))).seq.txbuf = [] := by decide

theorem test_witness_PacketFieldsAreExtracted :
    let s := received (.cmd .packet (.r .stop2)) (List.replicate 42 7)
    readsSample (.rdavg 1) = true ∧ s.seq.phase = .cmd .packet (.r .stop2) ∧ s.seq.rbuf.length = 42 ∧
      pktOffLegal s.cfg.pktOff = true := by decide

theorem test_witness_RdsmpCommitsThePhysicalSample :
    (received (.cmd .temp (.r .stop2)) [0xFF, 0x56]).seq.phase = .cmd .temp (.r .stop2) ∧
      (received (.cmd .temp (.r .stop2)) [0xFF, 0x56]).seq.rbuf = [0xFF, 0x56] := by decide

theorem test_witness_RdavgSumsAndDivides :
    accepted (samples .accepted) ∧ (1 : BitVec 16) ≠ 0 ∧ (samples .accepted).ae.devstat = .dmpReady ∧
      (let s := { received (.cmd .temp (.r .stop2)) [0, 0] with ae := { AcqRegs.zero 0 with avgn := 2 } }
       s.seq.rbuf = [0, 0] ∧ s.ae.avgi.toNat + 1 < s.ae.avgn.toNat) ∧
      (let s := { received (.cmd .temp (.r .stop2)) [0, 0] with ae := { AcqRegs.zero 0 with avgn := 2, avgi := 1 } }
       s.seq.phase = .cmd .temp (.r .stop2) ∧ s.ae.avgi.toNat + 1 = s.ae.avgn.toNat) :=
  ⟨rfl, by decide, rfl, by decide, by decide⟩

/-- A lawful instantiation of the numbers: one number. -/
theorem test_witness_lawful_numbers : ∃ m : NumModel Unit, m.Lawful :=
  ⟨⟨fun _ => (), fun _ _ => (), fun _ _ => (), fun _ _ => (), fun _ _ => (), fun _ _ => (), fun _ => (), fun _ => (),
    fun _ _ => (), fun _ _ _ _ _ => (), fun _ _ => ()⟩, ⟨fun _ => rfl, fun _ => rfl⟩⟩

theorem test_witness_AverageOfOneIsTheSample :
    let s := { received (.cmd .temp (.r .stop2)) [0, 0] with ae := { AcqRegs.zero 0 with avgn := 1, acc := accZero } }
    s.seq.phase = .cmd .temp (.r .stop2) ∧ s.ae.avgn = 1 ∧ s.ae.avgi = 0 ∧ s.ae.acc = accZero := by decide

theorem test_witness_FailedSampleKeepsTheOldOne :
    readsSample .rdsmp = true ∧ readsSample (.rdavg 1) = true ∧ Site.packet.ofSample = true ∧
      siteReads .packet = true ∧ failsAt .packet ∧ Site.ovfWrite.ofSample = true ∧ siteReads .ovfWrite = false ∧
      writeFailsAt .ovfWrite :=
  ⟨rfl, rfl, rfl, rfl, failsAt_all _, rfl, rfl, writeFailsAt_all _⟩

theorem test_witness_NoInstructionWritesImg : ∃ t, exec .init (runs .accepted) = .next t := ⟨_, rfl⟩

theorem test_witness_OnlyItsOwnersWriteState :
    (∃ t, exec (.dwb 0 0) (runs .accepted) = .next t) ∧
      (let s := received (.cmd .packet (.r .stop2)) (List.replicate 42 7)
       phaseFits (.rdavg 1) s.seq.phase = true ∧ s.seq.phase ≠ .cmd .temp (.r .stop2) ∧ s.seq.phase ≠ .accepted ∧
        ∃ t, exec (.rdavg 1) s = .next t ∧ ∀ c, t.seq.phase ≠ .ending (.fail c .ok)) ∧
      (runs .image).seq.phase.inImage = true ∧
      ∃ t, exec (.recSpcInten 7 8) (runs .image) = .next t ∧ t.seq.phase ≠ .image :=
  ⟨⟨_, rfl⟩, ⟨rfl, nofun, nofun, _, rfl, fun _ => nofun⟩, rfl, ⟨_, rfl, nofun⟩⟩

theorem test_witness_RdbWritesReceivedBytesOnly :
    (∃ t, exec (.rdb 0 0 1) (runs .accepted) = .next t) ∧
      ∃ t, exec (.rdb 0 0 1) (received (.cmd .rdb (.r .stop2)) [7]) = .next t := ⟨⟨_, rfl⟩, ⟨_, rfl⟩⟩

theorem test_witness_OnlyResetsWriteTheController :
    (∃ t, exec (.wrb 0 0 0) (runs .accepted) = .next t ∧ t.seq.phase ≠ .idle) ∧ keepsByte (.wrb 0 0 0) = true ∧
      (∃ t, exec .init (runs (.ending (.succeed false))) = .next t) ∧
      (let s := received (.cmd .packet (.r .stop2)) (List.replicate 42 7)
       phaseFits .rdsmp s.seq.phase = true ∧ (∃ t, exec .rdsmp s = .next t) ∧
        ∀ k ∈ [Site.rdbit, .rmwRead, .ovfRead], s.seq.phase ≠ .cmd k (.r .stop2)) :=
  ⟨⟨_, rfl, by decide⟩, rfl, ⟨_, rfl⟩, rfl, ⟨_, rfl⟩, by decide⟩

theorem test_witness_CommandsEndWithTheirCodes :
    phaseFits (.wrb 0 0 65) (runs .accepted).seq.phase = true ∧ (Instr.wrb 0 0 65).isCommand = true ∧
      (∃ t, exec (.wrb 0 0 65) (runs .accepted) = .next t ∧ t.seq.phase = .idle) ∧
      ∃ t, exec .init (runs .accepted) = .next t ∧ t.seq.phase = .ending (.succeed false) :=
  ⟨rfl, rfl, ⟨_, rfl, rfl⟩, ⟨_, rfl, rfl⟩⟩

/-- The state that meets the hypotheses of the invariants and takes a step inside a record's chunk. -/
def inRecord : State :=
  { atRecord with
    fp := { ProgRegs.zero 16 with curbank := 31, curoff := 255, remain := 1, srcptr := 3, chunklen := 1, iend := 4 },
    bt := { atRecord.bt with rm := true }, seq := { Seq.idle with phase := .record .upData (.w .data) } }

theorem test_witness_ControlInvariantIsKept : controlInv inRecord ∧ ∃ t, step inRecord = .next t :=
  ⟨by unfold controlInv; decide, ⟨_, rfl⟩⟩

theorem test_witness_UploadInvariantIsKept : uploadInv inRecord ∧ ∃ t, step inRecord = .next t :=
  ⟨⟨by unfold cursorInv; decide, fun _ => by unfold chunkInv; decide⟩, ⟨_, rfl⟩⟩

theorem test_witness_TransferInvariantIsKept : uploadInv inRecord ∧ transferInv inRecord ∧ ∃ t, step inRecord = .next t :=
  ⟨⟨by unfold cursorInv; decide, fun _ => by unfold chunkInv; decide⟩, ⟨rfl, rfl⟩, ⟨_, rfl⟩⟩

theorem test_witness_MemoriesStayCanonical : memoryInv inRecord ∧ ∃ t, step inRecord = .next t := ⟨⟨rfl, rfl⟩, ⟨_, rfl⟩⟩

theorem test_witness_PhaseInvariantIsKeptAndSafe : controlInv inRecord ∧ phaseInv inRecord :=
  ⟨by unfold controlInv; decide, ⟨.upimg 0 4 0, rfl, rfl⟩, .recData 0x1F 0xFF [7], [], by decide, rfl⟩

end Sys2Proof.Tests
end

section
/-! SUPPORT. The turns of a step as equations: what the block does on its own turn, what ENV does when it lifts a hold,
and which of the two a step without a scheduled move is. -/

namespace Sys2Proof.Machine

/-! ### The block's turn and ENV's -/

/-- `fetch` reads the instruction that stands where the block fetches. -/
theorem fetch_of_fetches {s : State} {i : Instr} (h : fetches s i) : fetch s = some i := by
  rcases h with ⟨hp, hd⟩ | ⟨hp, rest, hr⟩ | ⟨hp, ⟨e, hr⟩, hd⟩
  · simp [fetch, hp, hd, Except.toOption]
  · simp [fetch, hp, hr]
  · simp [fetch, hp, hr, hd, Except.toOption]

theorem blockTurn_idle {s : State} (hp : s.seq.phase = .idle) : blockTurn s = .next s := by
  simp only [blockTurn, hp]

theorem blockTurn_running {s : State} {i : Instr} (hp : s.seq.phase ≠ .idle) (hf : fetch s = some i) :
    blockTurn s = exec i s := by
  unfold blockTurn
  split
  · exact absurd ‹_› hp
  · simp only [hf]

/-- Whichever way ENV lifts a hold, STP and BB are 0 after it (R91, R92). -/
theorem liftHold_eq (s : State) : liftHold s = withBusFreed s := by
  unfold liftHold
  cases hs : s.bt.stp with
  | true => rfl
  | false => simp [setBusy, withBusFreed, ← hs]

theorem step_refDevDue {s : State} (hc : cfgLegal s.cfg = true) (hd : s.refDevDue = true) :
    step s = .next (withBusFreed s) := by
  simp only [step, hc, hd, Bool.not_true, Bool.false_eq_true, if_false, if_true]
  rfl

/-- A step for which RefDev has no STOP to complete is the default turn, where one is due. -/
theorem step_default {s : State} (ht : agendaTurn s) (hd : defaultDue s) : step s = defaultTurn s := by
  obtain ⟨hc, hr⟩ := ht
  rcases hd with hm | ⟨hb, rest, hm⟩
  · simp [step, hc, hr, hm]
  · simp [step, hc, hr, hm, hb]

/-- Where the default turn is due, ENV frees a lingering bus under HardwareResolves, or with RefDev on the bus and its
STOP pending (R93, R95); and else the block takes its turn. -/
theorem step_of_defaultDue {s : State} (hc : cfgLegal s.cfg = true) (hd : defaultDue s) :
    step s =
      if s.lingers = true ∧ (s.env.resolves = true ∨ s.env.dev.isSome = true ∧ s.bt.stp = true) then
        .next (withBusFreed s)
      else blockTurn s := by
  cases hr : s.refDevDue with
  | true =>
    obtain ⟨⟨hdev, hstp⟩, hl⟩ : (s.env.dev.isSome = true ∧ s.bt.stp = true) ∧ s.lingers = true := by
      simpa [State.refDevDue] using hr
    rw [step_refDevDue hc hr, if_pos ⟨hl, .inr ⟨hdev, hstp⟩⟩]
  | false =>
    rw [step_default ⟨hc, hr⟩ hd, defaultTurn, liftHold_eq]
    have hn : ¬ ((s.env.dev.isSome = true ∧ s.bt.stp = true) ∧ s.lingers = true) := by
      simpa [State.refDevDue] using hr
    cases hl : s.lingers with
    | false => simp
    | true => simp only [hl, and_true] at hn; simp [hn]

theorem State.lingers_of_idle {s : State} (hp : s.seq.phase = .idle) : s.lingers = busHeld s.bt := by
  simp only [State.lingers, hp]

theorem step_block {s : State} {rest : List Move} (ht : agendaTurn s) (hm : s.moves = .block :: rest) :
    step s = blockTurn { s with moves := rest } := by
  obtain ⟨hc, hr⟩ := ht
  simp [step, hc, hr, hm]

theorem step_wait_idle {s : State} {rest : List Move} (ht : agendaTurn s) (hm : s.moves = .wait :: rest)
    (hb : s.busy = false) : step s = .next { s with moves := rest } := by
  obtain ⟨hc, hr⟩ := ht
  simp [step, hc, hr, hm, hb]

/-- Settles O6: with nothing else due a step is the block's turn, and that runs the fetched instruction. -/
theorem stepRunsTheDecodedInstruction : Obligations.StepRunsTheDecodedInstruction := by
  unfold Obligations.StepRunsTheDecodedInstruction
  refine ⟨fun s i hc hd hp hf => ?_, fun s hc hm hp => ?_, fun s rest ht => ⟨fun hm => ⟨fun hp => ?_, ?_⟩, ?_⟩⟩
  · rw [step_of_defaultDue hc hd, State.lingers_of_running hp, blockTurn_running hp (fetch_of_fetches hf)]
  · rw [step_of_defaultDue hc (.inl hm), State.lingers_of_idle hp, blockTurn_idle hp]
    simp only [busHeld, Bool.or_eq_true]
  · rw [step_block ht hm, blockTurn_idle (s := { s with moves := rest }) hp]
  · intro i hp hf
    rw [step_block ht hm]
    exact blockTurn_running (s := { s with moves := rest }) hp (fetch_of_fetches hf)
  · exact fun hm hb => step_wait_idle ht hm hb

end Sys2Proof.Machine
end

section
/-! SUPPORT. What a caller does between two bus primitives: with the reply of a transaction, at the head of a record,
and with the return value of an image. No bus event happens there. -/

namespace Sys2Proof.Machine

/-! ### Frames -/

/-- What no instruction writes: CFG, the descriptor latch, the reset count, the moves to come, and IMG. -/
structure KeepsProgram (s t : State) : Prop where
  fixed : sameFixed s t
  img : t.img = s.img

theorem KeepsProgram.refl (s : State) : KeepsProgram s s := ⟨⟨rfl, rfl, rfl, rfl⟩, rfl⟩

theorem KeepsProgram.trans {s t u : State} (h : KeepsProgram s t) (k : KeepsProgram t u) : KeepsProgram s u := by
  obtain ⟨⟨hc, hd, he, hm⟩, hi⟩ := h
  obtain ⟨⟨kc, kd, ke, km⟩, ki⟩ := k
  exact ⟨⟨kc.trans hc, kd.trans hd, ke.trans he, km.trans hm⟩, ki.trans hi⟩

theorem OnlyBus.keepsProgram {s t : State} (h : OnlyBus s t) : KeepsProgram s t :=
  ⟨⟨h.cfg, h.cmdr, h.epoch, h.moves⟩, h.img⟩

/-- From `s` to `t` no bus primitive has run: TRACE and ENV are as they were, and of the bus registers that STATUS shows
only the mode RM and the sticky flags may differ, of which none has been set. -/
structure Quiet (s t : State) : Prop where
  program : KeepsProgram s t
  trace : t.trace = s.trace
  env : t.env = s.env
  wire : sameWire s t
  controller : sameController s t
  nack : t.bt.nack = true → s.bt.nack = true
  arbl : t.bt.arbl = true → s.bt.arbl = true
  ardy : t.bt.ardy = true → s.bt.ardy = true

theorem Quiet.trans {s t u : State} (h : Quiet s t) (k : Quiet t u) : Quiet s u := by
  obtain ⟨hbb, hstp, hmst, htrx⟩ := h.wire
  obtain ⟨kbb, kstp, kmst, ktrx⟩ := k.wire
  obtain ⟨hpsc, hl, hh, hini, hqen, hirs⟩ := h.controller
  obtain ⟨kpsc, kl, kh, kini, kqen, kirs⟩ := k.controller
  exact ⟨h.program.trans k.program, k.trace.trans h.trace, k.env.trans h.env,
    ⟨kbb.trans hbb, kstp.trans hstp, kmst.trans hmst, ktrx.trans htrx⟩,
    ⟨kpsc.trans hpsc, kl.trans hl, kh.trans hh, kini.trans hini, kqen.trans hqen, kirs.trans hirs⟩,
    h.nack ∘ k.nack, h.arbl ∘ k.arbl, h.ardy ∘ k.ardy⟩

/-- An assignment that leaves the bus registers, TRACE, ENV and the program as they are. -/
theorem Quiet.of_sameBus {s t : State} (hf : sameFixed s t) (hi : t.img = s.img) (hb : t.bt = s.bt)
    (ht : t.trace = s.trace) (he : t.env = s.env) : Quiet s t :=
  ⟨⟨hf, hi⟩, ht, he, by simp only [sameWire, hb, and_self], by simp only [sameController, hb, and_self],
    by rw [hb]; exact id, by rw [hb]; exact id, by rw [hb]; exact id⟩

theorem Quiet.refl (s : State) : Quiet s s := .of_sameBus ⟨rfl, rfl, rfl, rfl⟩ rfl rfl rfl rfl

theorem Quiet.goto (s : State) (p : Phase) : Quiet s (s.goto p) := .of_sameBus ⟨rfl, rfl, rfl, rfl⟩ rfl rfl rfl rfl

theorem Quiet.setFp (s : State) (p : ProgRegs) : Quiet s { s with fp := p } :=
  .of_sameBus ⟨rfl, rfl, rfl, rfl⟩ rfl rfl rfl rfl

theorem Quiet.setAe (s : State) (a : AcqRegs) : Quiet s { s with ae := a } :=
  .of_sameBus ⟨rfl, rfl, rfl, rfl⟩ rfl rfl rfl rfl

theorem Quiet.setTmpb (s : State) (b : Byte) : Quiet s { s with bt := { s.bt with tmpb := b } } :=
  ⟨⟨⟨rfl, rfl, rfl, rfl⟩, rfl⟩, rfl, rfl, ⟨rfl, rfl, rfl, rfl⟩, ⟨rfl, rfl, rfl, rfl, rfl, rfl⟩, id, id, id⟩

theorem Quiet.beginWrite (s : State) (sa : BitVec 7) (reg : Byte) (data : List Byte) (here : XferAt → Phase) :
    Quiet s (s.beginWrite sa reg data here) :=
  ⟨⟨⟨rfl, rfl, rfl, rfl⟩, rfl⟩, rfl, rfl, ⟨rfl, rfl, rfl, rfl⟩, ⟨rfl, rfl, rfl, rfl, rfl, rfl⟩, nofun, nofun, nofun⟩

theorem Quiet.beginRead (s : State) (sa : BitVec 7) (reg : Byte) (n : BitVec 16) (here : XferAt → Phase) :
    Quiet s (s.beginRead sa reg n here) :=
  ⟨⟨⟨rfl, rfl, rfl, rfl⟩, rfl⟩, rfl, rfl, ⟨rfl, rfl, rfl, rfl⟩, ⟨rfl, rfl, rfl, rfl, rfl, rfl⟩, nofun, nofun, nofun⟩

theorem Quiet.writeBack (s : State) (sa : BitVec 7) (reg : Byte) (start width : Nat) (value : Byte) (buf : List Byte)
    (here : XferAt → Phase) : Quiet s (s.writeBack sa reg start width value buf here) :=
  (Quiet.setTmpb s (byteAt buf 0)).trans (Quiet.beginWrite _ _ _ _ _)

/-! ### The callers of a procedure -/

/-- What holds wherever a procedure goes on and wherever its caller handles a return value holds after it. -/
theorem ProcNext.elim_of {P : State → Prop} {p : ProcNext} {ret : Option Code → State → State}
    (hrun : ∀ t, p = .run t → P t) (hret : ∀ r t, p = .ret r t → P (ret r t)) : P (p.elim ret) := by
  cases p with
  | run t => exact hrun t rfl
  | ret r t => exact hret r t rfl

theorem Quiet.elim {s : State} {p : ProcNext} {ret : Option Code → State → State} (hp : Quiet s p.state)
    (hret : ∀ r t, Quiet t (ret r t)) : Quiet s (p.elim ret) :=
  ProcNext.elim_of (fun _ h => by subst h; exact hp) (fun r t h => by subst h; exact hp.trans (hret r t))

/-- A procedure that goes on has begun a transaction at a call site of its own. -/
def ProcNext.enters (here : Site → XferAt → Phase) (own : Site → Bool) : ProcNext → Prop
  | .run t => ∃ k x, t.seq.phase = here k x ∧ own k = true ∧ siteMatches k x = true
  | .ret _ _ => True

/-! ### UploadBlock (R202) -/

theorem blockHead_quiet (here : Site → XferAt → Phase) (s : State) : Quiet s (blockHead here s).state := by
  unfold blockHead
  split
  · exact .refl s
  · exact (Quiet.setFp s _).trans (Quiet.beginWrite _ _ _ _ _)

theorem blockEnter_quiet (here : Site → XferAt → Phase) (src : BitVec 17) (size : BitVec 16) (bank : BitVec 5)
    (off : Byte) (verify : Bool) (s : State) : Quiet s (blockEnter here src size bank off verify s).state :=
  (Quiet.setFp s _).trans (blockHead_quiet here _)

theorem blockNext_quiet (here : Site → XferAt → Phase) (s : State) : Quiet s (blockNext here s).state :=
  (Quiet.setFp s _).trans (blockHead_quiet here _)

theorem blockReply_quiet (here : Site → XferAt → Phase) (k : Site) (r : Reply) (s : State) :
    Quiet s (blockReply here k r s).state := by
  cases r with
  | fail c => exact .refl s
  | ok buf =>
    cases k
    case upSelect | upAddr | upVSelect => exact Quiet.beginWrite _ _ _ _ _
    case upVAddr => exact Quiet.beginRead _ _ _ _ _
    case upData =>
      simp only [blockReply]
      split
      · exact Quiet.beginWrite _ _ _ _ _
      · exact blockNext_quiet here s
    case upVRead =>
      simp only [blockReply]
      split
      · exact (Quiet.setFp s _).trans (blockNext_quiet here _)
      · exact Quiet.setFp s _
    all_goals exact .refl s

theorem blockHead_enters (here : Site → XferAt → Phase) (s : State) :
    (blockHead here s).enters here Site.ofUpload := by
  unfold blockHead
  split
  · trivial
  · exact ⟨.upSelect, .w .start, rfl, rfl, rfl⟩

theorem blockReply_enters (here : Site → XferAt → Phase) (k : Site) (r : Reply) (s : State) :
    (blockReply here k r s).enters here Site.ofUpload := by
  cases r with
  | fail c => trivial
  | ok buf =>
    cases k
    case upSelect => exact ⟨.upAddr, .w .start, rfl, rfl, rfl⟩
    case upAddr => exact ⟨.upData, .w .start, rfl, rfl, rfl⟩
    case upVSelect => exact ⟨.upVAddr, .w .start, rfl, rfl, rfl⟩
    case upVAddr => exact ⟨.upVRead, .r .start1, rfl, rfl, rfl⟩
    case upData =>
      simp only [blockReply]
      split
      · exact ⟨.upVSelect, .w .start, rfl, rfl, rfl⟩
      · exact blockHead_enters here _
    case upVRead =>
      simp only [blockReply]
      split
      · exact blockHead_enters here _
      · trivial
    all_goals trivial

/-! ### IdentityCheck (R233) and ReadSample (R240) -/

theorem identityReply_quiet (r : Reply) (s : State) : Quiet s (identityReply r s).state := by
  simp only [identityReply]
  split
  · exact .refl s
  · split
    · exact Quiet.setAe s _
    · exact (Quiet.setAe s _).trans (Quiet.beginRead _ _ _ _ _)

theorem identityReply_enters (r : Reply) (s : State) : (identityReply r s).enters .cmd (· == .identity) := by
  simp only [identityReply]
  split
  · trivial
  · split
    · trivial
    · exact ⟨.identity, .r .start1, rfl, rfl, rfl⟩

theorem sampleReply_quiet (k : Site) (r : Reply) (s : State) : Quiet s (sampleReply k r s).state := by
  cases r with
  | fail c => exact .refl s
  | ok buf =>
    cases k
    case fifoCount | intStatus =>
      simp only [sampleReply]
      split <;> exact (Quiet.setAe s _).trans (Quiet.beginRead _ _ _ _ _)
    case ovfRead => exact Quiet.writeBack _ _ _ _ _ _ _ _
    case ovfWrite => exact Quiet.beginRead _ _ _ _ _
    case packet => exact (Quiet.setAe s _).trans (Quiet.beginRead _ _ _ _ _)
    case temp => exact Quiet.setAe s _
    all_goals exact .refl s

theorem sampleReply_enters (k : Site) (r : Reply) (s : State) : (sampleReply k r s).enters .cmd Site.ofSample := by
  cases r with
  | fail c => trivial
  | ok buf =>
    cases k
    case fifoCount =>
      simp only [sampleReply]
      split
      · exact ⟨.fifoCount, .r .start1, rfl, rfl, rfl⟩
      · exact ⟨.intStatus, .r .start1, rfl, rfl, rfl⟩
    case intStatus =>
      simp only [sampleReply]
      split
      · exact ⟨.ovfRead, .r .start1, rfl, rfl, rfl⟩
      · exact ⟨.packet, .r .start1, rfl, rfl, rfl⟩
    case ovfRead => exact ⟨.ovfWrite, .w .start, rfl, rfl, rfl⟩
    case ovfWrite => exact ⟨.fifoCount, .r .start1, rfl, rfl, rfl⟩
    case packet => exact ⟨.temp, .r .start1, rfl, rfl, rfl⟩
    all_goals trivial

/-! ### The uses of a return value -/

theorem endWith_quiet (r : Reply) (s : State) : Quiet s (endWith r s) := by
  cases r <;> exact Quiet.goto _ _

theorem endUpload_quiet (code : Code) (r : Option Code) (s : State) : Quiet s (endUpload code r s) := by
  cases r <;> exact Quiet.goto _ _

theorem recordEnd_quiet (size : Nat) (r : Option Code) (s : State) : Quiet s (recordEnd size r s) := by
  cases r with
  | none => exact (Quiet.setFp s _).trans (Quiet.goto _ _)
  | some c => exact Quiet.goto _ _

theorem setupIdentified_quiet (r : Option Code) (s : State) : Quiet s (setupIdentified r s) := by
  cases r <;> exact .of_sameBus ⟨rfl, rfl, rfl, rfl⟩ rfl rfl rfl rfl

theorem setupUploaded_quiet (r : Option Code) (s : State) : Quiet s (setupUploaded r s) := by
  cases r <;> exact .of_sameBus ⟨rfl, rfl, rfl, rfl⟩ rfl rfl rfl rfl

theorem singleSampleEnd_quiet (r : Option Code) (s : State) : Quiet s (singleSampleEnd r s) := by
  cases r <;> exact .of_sameBus ⟨rfl, rfl, rfl, rfl⟩ rfl rfl rfl rfl

theorem averageSampleEnd_quiet (r : Option Code) (s : State) : Quiet s (averageSampleEnd r s) := by
  cases r with
  | some c => exact .of_sameBus ⟨rfl, rfl, rfl, rfl⟩ rfl rfl rfl rfl
  | none =>
    simp only [averageSampleEnd]
    split
    · exact (Quiet.setAe s _).trans (Quiet.beginRead _ _ _ _ _)
    · exact .of_sameBus ⟨rfl, rfl, rfl, rfl⟩ rfl rfl rfl rfl

theorem rmwReadReply_quiet (sa : BitVec 7) (reg : Byte) (start width : Nat) (value : Byte) (r : Reply) (s : State) :
    Quiet s (rmwReadReply sa reg start width value r s) := by
  cases r with
  | ok buf => exact Quiet.writeBack _ _ _ _ _ _ _ _
  | fail c => exact Quiet.goto _ _

/-- What a command does with a reply makes no bus event. -/
theorem cmdReply_quiet (c : Cfg) (i : Instr) (k : Site) (r : Reply) (s : State) : Quiet s (cmdReply c i k r s) := by
  cases i
  case rdb =>
    cases r with
    | ok buf => exact .of_sameBus ⟨rfl, rfl, rfl, rfl⟩ rfl rfl rfl rfl
    | fail c => exact Quiet.goto _ _
  case rdbit =>
    cases r with
    | ok buf => exact (Quiet.setTmpb s _).trans (Quiet.goto _ _)
    | fail c => exact Quiet.goto _ _
  case wrbit | wrbf | dwbf =>
    simp only [cmdReply]
    split
    · exact rmwReadReply_quiet _ _ _ _ _ r s
    · exact endWith_quiet r s
  case upblk => exact (blockReply_quiet .cmd k r s).elim (endUpload_quiet _)
  case setup => exact (identityReply_quiet r s).elim setupIdentified_quiet
  case rdsmp => exact (sampleReply_quiet k r s).elim singleSampleEnd_quiet
  case rdavg => exact (sampleReply_quiet k r s).elim averageSampleEnd_quiet
  all_goals exact endWith_quiet r s

/-- What a record does with a reply makes no bus event. -/
theorem recReply_quiet (i : Instr) (k : Site) (r : Reply) (s : State) : Quiet s (recReply i k r s) := by
  cases i
  case recData => exact (blockReply_quiet .record k r s).elim (recordEnd_quiet _)
  case recSpcInten =>
    cases r with
    | ok buf => exact recordEnd_quiet 4 none s
    | fail c => exact Quiet.goto _ _
  all_goals exact .refl s

theorem imageStep_quiet (i : Instr) (s : State) : Quiet s (imageStep i s) := by
  cases i
  case recData =>
    simp only [imageStep]
    split
    · exact Quiet.goto _ _
    · exact (blockEnter_quiet .record _ _ _ _ _ s).elim (recordEnd_quiet _)
  case recSpcInten => exact Quiet.beginWrite _ _ _ _ _
  case upimg | setup => exact Quiet.goto _ _
  all_goals exact .refl s

theorem imageDoneStep_quiet (i : Instr) (r : Option Code) (s : State) : Quiet s (imageDoneStep i r s) := by
  cases i
  case setup => exact setupUploaded_quiet r s
  case upimg => exact endUpload_quiet _ r s
  all_goals exact .refl s

end Sys2Proof.Machine
end

section
/-! SUPPORT. Where one step of an instruction leads: the phase of a command, the phase and the cursor of a record, and
what no step of an instruction writes. -/

namespace Sys2Proof.Machine

/-! ### What the block fetches -/

/-- Every row of the opcode map builds a command (R118). -/
theorem row_build_isCommand {r : Row} (hr : r ∈ rows) (d : Descriptor) : (r.build d).isCommand = true := by
  simp only [rows, List.mem_cons, List.not_mem_nil, or_false] at hr
  rcases hr with rfl | rfl | rfl | rfl | rfl | rfl | rfl | rfl | rfl | rfl | rfl | rfl | rfl | rfl | rfl <;> rfl

theorem decodeDescriptor_isCommand {d : Descriptor} {i : Instr} (h : decodeDescriptor d = .ok i) :
    i.isCommand = true := by
  unfold decodeDescriptor at h
  split at h
  · cases h; exact row_build_isCommand (List.mem_of_find?_eq_some ‹_›) d
  · split at h <;> cases h

theorem decodeRecord_isRecord {bytes rest : List Byte} {i : Instr} (h : decodeRecord bytes = .ok (i, rest)) :
    i.isCommand = false := by
  unfold decodeRecord at h
  repeat' split at h
  all_goals (cases h <;> rfl)

theorem commandOf_isCommand {s : State} {i : Instr} (h : commandOf s = some i) : i.isCommand = true := by
  unfold commandOf at h
  cases hd : decodeDescriptor s.cmdr with
  | error e => rw [hd] at h; cases h
  | ok j => rw [hd] at h; cases h; exact decodeDescriptor_isCommand hd

/-- A fetched command is the one in CMDR; a fetched record stands at IPOS inside an image (R119, R206). -/
theorem fetch_cases {s : State} {i : Instr} (h : fetch s = some i) :
    (i.isCommand = true ∧ commandOf s = some i ∧
      (s.seq.phase.inImage = true → ∃ e, fetchRecord s = .error e)) ∨
    (i.isCommand = false ∧ s.seq.phase.inImage = true ∧ ∃ rest, fetchRecord s = .ok (i, rest)) := by
  unfold fetch at h
  split at h
  · rename_i hp
    split at h
    · rename_i j rest hr
      cases h
      exact .inr ⟨decodeRecord_isRecord hr, hp, rest, hr⟩
    · exact .inl ⟨commandOf_isCommand h, h, fun _ => ⟨_, ‹_›⟩⟩
  · exact .inl ⟨commandOf_isCommand h, h, fun hp => absurd hp ‹_›⟩

/-! ### What no instruction writes -/

theorem State.xfer_of {P : State → Prop} {s : State} {x : XferAt} {here : XferAt → Phase}
    {reply : Reply → State → State} (hold : P s) (go : ∀ y t, xferStep s x = .go y t → P (t.goto (here y)))
    (done : ∀ r t, xferStep s x = .done r t → P (reply r t)) : P (s.xfer x here reply) := by
  unfold State.xfer
  cases hx : xferStep s x with
  | hold => exact hold
  | go y t => exact go y t hx
  | done r t => exact done r t hx

theorem State.xfer_keepsProgram {s : State} {x : XferAt} {here : XferAt → Phase} {reply : Reply → State → State}
    (hq : ∀ r t, Quiet t (reply r t)) : KeepsProgram s (s.xfer x here reply) :=
  State.xfer_of (.refl s) (fun _ _ hx => (xferStep_go hx).2.1.keepsProgram.trans (Quiet.goto _ _).program)
    (fun r t hx => (xferStep_done hx).1.keepsProgram.trans (hq r t).program)

theorem State.fail_keepsProgram (s : State) (code cause : Code) : KeepsProgram s (s.fail code cause) :=
  ⟨⟨rfl, rfl, rfl, rfl⟩, rfl⟩

theorem State.busStart_keepsProgram (s : State) : KeepsProgram s s.busReset.busInit := ⟨⟨rfl, rfl, rfl, rfl⟩, rfl⟩

theorem State.ifInitd_keepsProgram {s : State} {go : State → State} (h : KeepsProgram s (go s)) :
    KeepsProgram s (s.ifInitd go) := by
  unfold State.ifInitd
  split
  · exact h
  · exact s.fail_keepsProgram _ _

theorem State.finish_keepsProgram (s : State) (e : Ending) : KeepsProgram s (s.finish e) := by
  cases e <;> exact ⟨⟨rfl, rfl, rfl, rfl⟩, rfl⟩

theorem acceptStep_keepsProgram (i : Instr) (s : State) : KeepsProgram s (acceptStep i s) := by
  cases i <;> simp only [acceptStep]
  case init => exact s.busStart_keepsProgram.trans (Quiet.goto _ _).program
  case setup => exact s.busStart_keepsProgram.trans ((Quiet.setAe _ _).trans (Quiet.beginRead _ _ _ _ _)).program
  case rdbit => exact s.ifInitd_keepsProgram (Quiet.beginRead _ _ _ _ _).program
  case dwb | selbank | setaddr => exact s.ifInitd_keepsProgram (Quiet.beginWrite _ _ _ _ _).program
  case recData | recSpcInten => exact .refl s
  case wrb =>
    split
    · exact s.fail_keepsProgram _ _
    · exact s.ifInitd_keepsProgram (Quiet.beginWrite _ _ _ _ _).program
  case rdb | wrbit | wrbf | dwbf =>
    split
    · exact s.fail_keepsProgram _ _
    · exact s.ifInitd_keepsProgram (Quiet.beginRead _ _ _ _ _).program
  case upblk =>
    split
    · exact s.fail_keepsProgram _ _
    · split
      · exact s.fail_keepsProgram _ _
      · exact s.ifInitd_keepsProgram ((blockEnter_quiet _ _ _ _ _ _ s).elim (endUpload_quiet _)).program
  case upimg =>
    split
    · exact s.fail_keepsProgram _ _
    · exact s.ifInitd_keepsProgram ⟨⟨rfl, rfl, rfl, rfl⟩, rfl⟩
  case rdsmp =>
    split
    · exact s.fail_keepsProgram _ _
    · exact (Quiet.beginRead _ _ _ _ _).program
  case rdavg =>
    split
    · exact s.fail_keepsProgram _ _
    · split
      · exact s.fail_keepsProgram _ _
      · exact ((Quiet.setAe _ _).trans (Quiet.beginRead _ _ _ _ _)).program

/-- No step of an instruction writes CFG, the descriptor latch, the reset count, the moves to come or IMG. -/
theorem exec_keepsProgram {i : Instr} {s t : State} (h : exec i s = .next t) : KeepsProgram s t := by
  rcases exec_cases h with ⟨-, -, rfl⟩ | ⟨k, x, -, -, -, rfl⟩ | ⟨-, -, rfl⟩ | ⟨k, x, -, -, -, rfl⟩ | ⟨r, -, -, rfl⟩ |
    ⟨e, -, -, rfl⟩
  · exact acceptStep_keepsProgram i s
  · exact State.xfer_keepsProgram (cmdReply_quiet s.cfg i k)
  · exact (imageStep_quiet i s).program
  · exact State.xfer_keepsProgram (recReply_quiet i k)
  · exact (imageDoneStep_quiet i r s).program
  · exact s.finish_keepsProgram e

/-! ### The phase a command goes to -/

/-- Where a command's step may lead: it has ended, or stands in a phase of its own. -/
def commandFollows (i : Instr) (p : Phase) : Prop := p = .idle ∨ phaseFits i p = true

theorem siteMatches_iff (k : Site) (x : XferAt) : siteMatches k x = true ↔ x.isRead = siteReads k := by
  cases x <;> cases hk : siteReads k <;> simp [siteMatches, XferAt.isRead, hk]

theorem commandFollows_ending {i : Instr} (hi : i.isCommand = true) (e : Ending) : commandFollows i (.ending e) :=
  .inr hi

theorem commandFollows_site {i : Instr} {k : Site} {x : XferAt} (hi : i.isCommand = true) (hk : ownsSite i k = true)
    (hx : siteMatches k x = true) : commandFollows i (.cmd k x) :=
  .inr (by simp only [phaseFits, hi, hk, hx, Bool.and_self])

theorem State.fail_follows (i : Instr) (s : State) (code cause : Code) :
    commandFollows i (s.fail code cause).seq.phase := .inl rfl

theorem State.ifInitd_follows {i : Instr} {s : State} {go : State → State}
    (h : commandFollows i (go s).seq.phase) : commandFollows i (s.ifInitd go).seq.phase := by
  unfold State.ifInitd
  split
  · exact h
  · exact s.fail_follows i _ _

theorem endWith_follows {i : Instr} (hi : i.isCommand = true) (r : Reply) (s : State) :
    commandFollows i (endWith r s).seq.phase := by
  cases r <;> exact commandFollows_ending hi _

theorem endUpload_follows {i : Instr} (hi : i.isCommand = true) (code : Code) (r : Option Code) (s : State) :
    commandFollows i (endUpload code r s).seq.phase := by
  cases r <;> exact commandFollows_ending hi _

/-- A command's procedure that goes on stands at a call site of the command. -/
theorem ProcNext.elim_follows {i : Instr} {p : ProcNext} {ret : Option Code → State → State}
    (hi : i.isCommand = true) (hp : p.enters .cmd (ownsSite i))
    (hret : ∀ r t, commandFollows i (ret r t).seq.phase) : commandFollows i (p.elim ret).seq.phase := by
  refine ProcNext.elim_of (P := fun t => commandFollows i t.seq.phase) (fun t h => ?_) (fun r t _ => hret r t)
  subst h
  obtain ⟨k, x, ht, hk, hx⟩ := hp
  rw [ht]
  exact commandFollows_site hi hk hx

theorem acceptStep_follows {i : Instr} (hi : i.isCommand = true) (s : State) :
    commandFollows i (acceptStep i s).seq.phase := by
  cases i <;> simp only [acceptStep]
  case init => exact commandFollows_ending rfl _
  case setup => exact commandFollows_site (k := .identity) rfl rfl rfl
  case rdbit => exact s.ifInitd_follows (commandFollows_site (k := .rdbit) rfl rfl rfl)
  case dwb | selbank | setaddr => exact s.ifInitd_follows (commandFollows_site (k := .devWrite) rfl rfl rfl)
  case recData | recSpcInten => cases hi
  case wrb =>
    split
    · exact s.fail_follows _ _ _
    · exact s.ifInitd_follows (commandFollows_site (k := .wrb) rfl rfl rfl)
  case rdb =>
    split
    · exact s.fail_follows _ _ _
    · exact s.ifInitd_follows (commandFollows_site (k := .rdb) rfl rfl rfl)
  case wrbit | wrbf | dwbf =>
    split
    · exact s.fail_follows _ _ _
    · exact s.ifInitd_follows (commandFollows_site (k := .rmwRead) rfl rfl rfl)
  case upblk =>
    split
    · exact s.fail_follows _ _ _
    · split
      · exact s.fail_follows _ _ _
      · exact s.ifInitd_follows (ProcNext.elim_follows rfl (blockHead_enters .cmd _) (endUpload_follows rfl _))
  case upimg =>
    split
    · exact s.fail_follows _ _ _
    · exact s.ifInitd_follows (.inr rfl)
  case rdsmp =>
    split
    · exact s.fail_follows _ _ _
    · exact commandFollows_site (k := .fifoCount) rfl rfl rfl
  case rdavg =>
    split
    · exact s.fail_follows _ _ _
    · split
      · exact s.fail_follows _ _ _
      · exact commandFollows_site (k := .fifoCount) rfl rfl rfl

theorem rmwReadReply_follows {i : Instr} (hi : i.isCommand = true) (hk : ownsSite i .rmwWrite = true) (sa : BitVec 7)
    (reg : Byte) (start width : Nat) (value : Byte) (r : Reply) (s : State) :
    commandFollows i (rmwReadReply sa reg start width value r s).seq.phase := by
  cases r with
  | ok buf => exact commandFollows_site hi hk rfl
  | fail c => exact commandFollows_ending hi _

theorem setupIdentified_follows (r : Option Code) (s : State) :
    commandFollows .setup (setupIdentified r s).seq.phase := by
  cases r with
  | none => exact .inr rfl
  | some c => exact commandFollows_ending rfl _

theorem singleSampleEnd_follows (r : Option Code) (s : State) :
    commandFollows .rdsmp (singleSampleEnd r s).seq.phase := by
  cases r <;> exact commandFollows_ending rfl _

theorem averageSampleEnd_follows (n : BitVec 16) (r : Option Code) (s : State) :
    commandFollows (.rdavg n) (averageSampleEnd r s).seq.phase := by
  cases r with
  | some c => exact commandFollows_ending rfl _
  | none =>
    simp only [averageSampleEnd]
    split
    · exact commandFollows_site (k := .fifoCount) rfl rfl rfl
    · exact commandFollows_ending rfl _

theorem cmdReply_follows {i : Instr} (hi : i.isCommand = true) (c : Cfg) (k : Site) (r : Reply) (s : State) :
    commandFollows i (cmdReply c i k r s).seq.phase := by
  cases i
  case rdb | rdbit => cases r <;> exact commandFollows_ending rfl _
  case wrbit | wrbf | dwbf =>
    simp only [cmdReply]
    split
    · exact rmwReadReply_follows rfl rfl _ _ _ _ _ r s
    · exact endWith_follows rfl r s
  case upblk => exact ProcNext.elim_follows rfl (blockReply_enters .cmd k r s) (endUpload_follows rfl _)
  case setup => exact ProcNext.elim_follows rfl (identityReply_enters r s) setupIdentified_follows
  case rdsmp => exact ProcNext.elim_follows rfl (sampleReply_enters k r s) singleSampleEnd_follows
  case rdavg n => exact ProcNext.elim_follows rfl (sampleReply_enters k r s) (averageSampleEnd_follows n)
  case recData | recSpcInten => cases hi
  all_goals exact endWith_follows rfl r s

theorem isCommand_of_runsImage {i : Instr} (h : runsImage i = true) : i.isCommand = true := by
  cases i
  case upimg | setup => rfl
  all_goals cases h

theorem imageStep_follows {i : Instr} (hi : runsImage i = true) (s : State) :
    commandFollows i (imageStep i s).seq.phase := by
  cases i
  case upimg | setup => exact .inr rfl
  all_goals cases hi

theorem imageDoneStep_follows {i : Instr} (hi : runsImage i = true) (r : Option Code) (s : State) :
    commandFollows i (imageDoneStep i r s).seq.phase := by
  cases i
  case upimg => exact endUpload_follows rfl _ r s
  case setup => cases r <;> exact commandFollows_ending rfl _
  all_goals cases hi

/-- A command steps to a phase of its own, or has ended. -/
theorem exec_command_follows {i : Instr} {s t : State} (hi : i.isCommand = true)
    (hp : phaseFits i s.seq.phase = true) (h : exec i s = .next t) : commandFollows i t.seq.phase := by
  rcases exec_cases h with ⟨-, -, rfl⟩ | ⟨k, x, hs, -, hk, rfl⟩ | ⟨-, hr, rfl⟩ | ⟨k, x, -, hr, -, rfl⟩ |
    ⟨r, -, hr, rfl⟩ | ⟨e, -, -, rfl⟩
  · exact acceptStep_follows hi s
  · have hx : siteMatches k x = true := by rw [hs] at hp; exact (Bool.and_eq_true_iff.mp hp).2
    refine State.xfer_of (P := fun t => commandFollows i t.seq.phase) (.inr hp) (fun y u hy => ?_)
      (fun r u _ => cmdReply_follows hi s.cfg k r u)
    refine commandFollows_site hi hk ((siteMatches_iff k y).mpr ?_)
    rw [(xferStep_go hy).1, (siteMatches_iff k x).mp hx]
  · refine imageStep_follows (hr.resolve_right ?_) s
    simp [hi]
  · cases hi.symm.trans hr
  · exact imageDoneStep_follows hr r s
  · cases e <;> exact .inl rfl

/-! ### The phase a record goes to -/

/-- Where a record's step may lead: another transaction of its own with the record cursor where it was, the next record,
or the end of the image. -/
def recordFollows (i : Instr) (s t : State) : Prop :=
  match t.seq.phase with
  | .record k x => ownsSite i k = true ∧ siteMatches k x = true ∧ t.fp.ipos = s.fp.ipos ∧ t.fp.iend = s.fp.iend
  | .image | .imageDone _ => True
  | .idle | .accepted | .cmd _ _ | .ending _ => False

theorem recordFollows_site {i : Instr} {s t : State} {k : Site} {x : XferAt} (hp : t.seq.phase = .record k x)
    (hk : ownsSite i k = true) (hx : siteMatches k x = true) (hi : t.fp.ipos = s.fp.ipos)
    (he : t.fp.iend = s.fp.iend) : recordFollows i s t := by
  unfold recordFollows
  rw [hp]
  exact ⟨hk, hx, hi, he⟩

theorem recordEnd_follows (i : Instr) (s : State) (size : Nat) (r : Option Code) (t : State) :
    recordFollows i s (recordEnd size r t) := by
  cases r <;> trivial

/-- A record's upload that goes on stands at a call site of the record. -/
theorem ProcNext.elim_recordFollows {i : Instr} {s u : State} {p : ProcNext} {size : Nat} (hu : OnlyUpload u p.state)
    (hi : u.fp.ipos = s.fp.ipos) (he : u.fp.iend = s.fp.iend) (hp : p.enters .record (ownsSite i)) :
    recordFollows i s (p.elim (recordEnd size)) := by
  refine ProcNext.elim_of (fun t h => ?_) (fun r t _ => recordEnd_follows i s size r t)
  subst h
  obtain ⟨k, x, ht, hk, hx⟩ := hp
  exact recordFollows_site ht hk hx (hu.ipos.trans hi) (hu.iend.trans he)

theorem imageStep_recordFollows {i : Instr} (hi : i.isCommand = false) (s : State) :
    recordFollows i s (imageStep i s) := by
  cases i
  case recData =>
    simp only [imageStep]
    split
    · trivial
    · exact ProcNext.elim_recordFollows (blockEnter_onlyUpload .record _ _ _ _ _ s) rfl rfl (blockHead_enters .record _)
  case recSpcInten => exact recordFollows_site (k := .intEnable) (x := .w .start) rfl rfl rfl rfl rfl
  all_goals cases hi

theorem recReply_follows {i : Instr} {s t : State} (hi : i.isCommand = false) (hf : t.fp = s.fp) (k : Site)
    (r : Reply) : recordFollows i s (recReply i k r t) := by
  cases i
  case recData =>
    exact ProcNext.elim_recordFollows (blockReply_onlyUpload .record k r t) (by rw [hf]) (by rw [hf])
      (blockReply_enters .record k r t)
  case recSpcInten => cases r <;> trivial
  all_goals cases hi

/-- A record steps to a transaction of its own, to the next record, or to the end of the image. -/
theorem exec_record_follows {i : Instr} {s t : State} (hi : i.isCommand = false)
    (hp : phaseFits i s.seq.phase = true) (h : exec i s = .next t) : recordFollows i s t := by
  rcases exec_cases h with ⟨-, hc, -⟩ | ⟨k, x, -, hc, -, -⟩ | ⟨-, -, rfl⟩ | ⟨k, x, hs, -, hk, rfl⟩ |
    ⟨r, -, hr, -⟩ | ⟨e, -, hc, -⟩
  · cases hi.symm.trans hc
  · cases hi.symm.trans hc
  · exact imageStep_recordFollows hi s
  · have hx : siteMatches k x = true := by rw [hs] at hp; exact (Bool.and_eq_true_iff.mp hp).2
    refine State.xfer_of (recordFollows_site hs hk hx rfl rfl) (fun y u hy => ?_)
      (fun r u hd => recReply_follows hi (xferStep_done hd).1.fp k r)
    obtain ⟨hr, hu, -⟩ := xferStep_go hy
    refine recordFollows_site rfl hk ((siteMatches_iff k y).mpr ?_) (by simp [hu.fp]) (by simp [hu.fp])
    rw [hr, (siteMatches_iff k x).mp hx]
  · cases hi.symm.trans (isCommand_of_runsImage hr)
  · cases hi.symm.trans hc

end Sys2Proof.Machine
end

section
/-! SUPPORT. The phase invariant: what it depends on, that it makes the fetched instruction's phase its own, and that
every turn of an agent keeps it. -/

namespace Sys2Proof.Machine

/-! ### An instruction in a phase of its own goes on -/

/-- In a phase of its own every instruction has a next state. -/
theorem exec_next_of_phaseFits {i : Instr} {s : State} (h : phaseFits i s.seq.phase = true) :
    ∃ t, exec i s = .next t := by
  cases hp : s.seq.phase with
  | idle => rw [hp] at h; cases h
  | accepted =>
    rw [hp] at h
    exact ⟨_, exec_accepted hp h⟩
  | cmd k x =>
    simp only [hp, phaseFits, Bool.and_eq_true] at h
    obtain ⟨⟨hi, hk⟩, -⟩ := h
    exact ⟨_, exec_cmd hp hi hk⟩
  | image =>
    simp only [hp, phaseFits, Bool.or_eq_true, Bool.not_eq_true'] at h
    exact ⟨_, exec_image hp h⟩
  | record k x =>
    simp only [hp, phaseFits, Bool.and_eq_true, Bool.not_eq_true'] at h
    obtain ⟨⟨hi, hk⟩, -⟩ := h
    exact ⟨_, exec_record hp hi hk⟩
  | imageDone r =>
    rw [hp] at h
    exact ⟨_, exec_imageDone hp h⟩
  | ending e =>
    rw [hp] at h
    exact ⟨_, exec_ending hp h⟩

/-! ### The invariant and the fetch -/

theorem fetchRecord_congr {s t : State} (hm : t.img = s.img) (hn : t.epoch = s.epoch) (hi : t.fp.ipos = s.fp.ipos)
    (he : t.fp.iend = s.fp.iend) : fetchRecord t = fetchRecord s := by
  simp only [fetchRecord, State.imgBytes, State.imgByte, hm, hn, hi, he]

theorem commandOf_congr {s t : State} (h : t.cmdr = s.cmdr) : commandOf t = commandOf s := by
  simp only [commandOf, h]

theorem imageCommand_congr {s t : State} (h : t.cmdr = s.cmdr) : imageCommand t ↔ imageCommand s := by
  simp only [imageCommand, commandOf_congr h]

/-- The phase invariant speaks of the phase, the command latch, the image's bytes and the record cursor alone. -/
theorem phaseInv_congr {s t : State} (hp : t.seq.phase = s.seq.phase) (hc : t.cmdr = s.cmdr) (hm : t.img = s.img)
    (hn : t.epoch = s.epoch) (hf : t.fp = s.fp) (h : phaseInv s) : phaseInv t := by
  simpa only [phaseInv, hp, commandOf_congr hc, imageCommand_congr hc,
    fetchRecord_congr hm hn (congrArg _ hf) (congrArg _ hf)] using h

theorem phaseInv_of_idle {s : State} (hp : s.seq.phase = .idle) : phaseInv s := by
  simp only [phaseInv, hp]

theorem commandOf_eq_of_isCommand {s : State} {i : Instr} (hf : fetch s = some i) (hi : i.isCommand = true) :
    commandOf s = some i := by
  obtain ⟨-, h, -⟩ | ⟨h, -⟩ := fetch_cases hf
  · exact h
  · cases hi.symm.trans h

theorem fetchRecord_eq_of_isRecord {s : State} {i : Instr} (hf : fetch s = some i) (hi : i.isCommand = false) :
    s.seq.phase.inImage = true ∧ ∃ rest, fetchRecord s = .ok (i, rest) := by
  obtain ⟨h, -⟩ | ⟨-, h⟩ := fetch_cases hf
  · cases hi.symm.trans h
  · exact h

/-- Under the phase invariant a running block stands in a phase of the instruction it fetches. -/
theorem phaseFits_of_fetch {s : State} {i : Instr} (h : phaseInv s) (hp : s.seq.phase ≠ .idle)
    (hf : fetch s = some i) : phaseFits i s.seq.phase = true := by
  cases hi : i.isCommand with
  | false =>
    obtain ⟨hm, rest, hr⟩ := fetchRecord_eq_of_isRecord hf hi
    cases hs : s.seq.phase with
    | image => simp only [phaseFits, hi, Bool.not_false, Bool.or_true]
    | record k x =>
      simp only [phaseInv, hs] at h
      obtain ⟨-, r, rest', hr', hfit⟩ := h
      rw [hr] at hr'
      cases hr'
      exact hfit
    | idle | accepted | cmd _ _ | imageDone _ | ending _ => rw [hs] at hm; cases hm
  | true =>
    have hc := commandOf_eq_of_isCommand hf hi
    cases hs : s.seq.phase with
    | idle => exact absurd hs hp
    | accepted => exact hi
    | cmd k x =>
      simp only [phaseInv, hs] at h
      obtain ⟨j, hj, hfit⟩ := h
      cases hc.symm.trans hj
      exact hfit
    | image | imageDone _ =>
      simp only [phaseInv, hs] at h
      obtain ⟨j, hj, hr⟩ := h
      cases hc.symm.trans hj
      simp only [phaseFits, hr, Bool.true_or]
    | record k x =>
      simp only [phaseInv, hs] at h
      obtain ⟨-, r, rest, hr, -⟩ := h
      obtain ⟨-, -, he⟩ | ⟨hn, -⟩ := fetch_cases hf
      · obtain ⟨e, he⟩ := he (by rw [hs]; rfl)
        cases hr.symm.trans he
      · cases hi.symm.trans hn
    | ending e => exact hi

/-! ### Every turn keeps the invariant -/

theorem phaseInv_of_commandFollows {i : Instr} {t : State} (hc : commandOf t = some i)
    (h : commandFollows i t.seq.phase) : phaseInv t := by
  have hi := commandOf_isCommand hc
  unfold commandFollows at h
  cases hp : t.seq.phase <;> simp only [phaseInv, hp] <;> simp only [hp, phaseFits, hi, reduceCtorEq, false_or] at h
  case cmd => exact ⟨i, hc, by simpa only [phaseFits, hi] using h⟩
  case image | imageDone => exact ⟨i, hc, by simpa using h⟩
  case record => simp at h
  case ending => exact ⟨i, hc⟩

theorem phaseInv_of_recordFollows {i : Instr} {s t : State} {rest : List Byte} (hi : i.isCommand = false)
    (hc : imageCommand s) (hr : fetchRecord s = .ok (i, rest)) (hk : KeepsProgram s t) (h : recordFollows i s t) :
    phaseInv t := by
  obtain ⟨⟨-, hd, hn, -⟩, hm⟩ := hk
  have hct : imageCommand t := (imageCommand_congr hd).mpr hc
  unfold recordFollows at h
  cases hp : t.seq.phase <;> simp only [phaseInv, hp] <;> simp only [hp] at h
  case image | imageDone => exact hct
  case record k x =>
    obtain ⟨ho, hx, hpos, hend⟩ := h
    refine ⟨hct, i, rest, (fetchRecord_congr hm hn hpos hend).trans hr, ?_⟩
    simp only [phaseFits, hi, ho, hx, Bool.not_false, Bool.and_self]

theorem imageCommand_of_inImage {s : State} (h : phaseInv s) (hp : s.seq.phase.inImage = true) : imageCommand s := by
  cases hs : s.seq.phase <;> rw [hs] at hp <;> simp only [Phase.inImage, Bool.false_eq_true] at hp <;>
    simp only [phaseInv, hs] at h
  case image => exact h
  case record => exact h.1

/-- A step of the fetched instruction keeps the phase invariant. -/
theorem exec_keeps_phaseInv {i : Instr} {s t : State} (h : phaseInv s) (hp : s.seq.phase ≠ .idle)
    (hf : fetch s = some i) (he : exec i s = .next t) : phaseInv t := by
  have hfit := phaseFits_of_fetch h hp hf
  have hk := exec_keepsProgram he
  obtain ⟨-, hcmdr, -, -⟩ := hk.fixed
  cases hi : i.isCommand with
  | true =>
    refine phaseInv_of_commandFollows ?_ (exec_command_follows hi hfit he)
    rw [commandOf_congr hcmdr]
    exact commandOf_eq_of_isCommand hf hi
  | false =>
    obtain ⟨hm, rest, hr⟩ := fetchRecord_eq_of_isRecord hf hi
    exact phaseInv_of_recordFollows hi (imageCommand_of_inImage h hm) hr hk (exec_record_follows hi hfit he)

/-- Every turn of an agent keeps the phase invariant, where a running command has BUSY = 1. -/
theorem turn_keeps_phaseInv {u t : State} (hb : u.busy = false → u.seq.phase = .idle) (h : phaseInv u)
    (ht : Turn u t) : phaseInv t := by
  cases ht with
  | stay => exact h
  | lift => rw [liftHold_eq]; exact phaseInv_congr rfl rfl rfl rfl rfl h
  | run i t hp hf he => exact exec_keeps_phaseInv h hp hf he
  | reject => exact phaseInv_of_idle rfl
  | accept d => trivial
  | pbuf => exact phaseInv_congr rfl rfl rfl rfl rfl h
  | img a v hn => exact phaseInv_of_idle (hb hn)
  | stopped => exact phaseInv_congr rfl rfl rfl rfl rfl h
  | foreign v => exact phaseInv_congr rfl rfl rfl rfl rfl h
  | reset => exact phaseInv_of_idle rfl

/-! ### No step ends in the fault for a phase that is no one's -/

theorem blockTurn_ne_noSuchPhase {s : State} (h : phaseInv s) : blockTurn s ≠ .fault .noSuchPhase := by
  by_cases hp : s.seq.phase = .idle
  · rw [blockTurn_idle hp]; nofun
  · cases hf : fetch s with
    | some i =>
      obtain ⟨t, ht⟩ := exec_next_of_phaseFits (phaseFits_of_fetch h hp hf)
      rw [blockTurn_running hp hf, ht]
      nofun
    | none =>
      unfold blockTurn
      split
      · nofun
      · rw [hf]; nofun

theorem defaultTurn_ne_noSuchPhase {s : State} (h : phaseInv s) : defaultTurn s ≠ .fault .noSuchPhase := by
  unfold defaultTurn
  split
  · nofun
  · exact blockTurn_ne_noSuchPhase h

/-- The faults of a move of HOST or ENV are those of an address that does not exist (R70). -/
theorem outsideMove_ne_noSuchPhase (m : Move) (s : State) : outsideMove m s ≠ .fault .noSuchPhase := by
  cases m <;> simp only [outsideMove, hostWrite, hostWritePbuf, hostWriteImg]
  case wait | block | resetBlock => nofun
  case readHR | stopComplete | foreignBusy | foreignIdle => split <;> nofun
  all_goals (repeat' split) <;> nofun

theorem step_ne_noSuchPhase {s : State} (h : phaseInv s) : step s ≠ .fault .noSuchPhase := by
  unfold step
  split
  · nofun
  split
  · nofun
  split
  · exact defaultTurn_ne_noSuchPhase h
  · split
    · exact defaultTurn_ne_noSuchPhase h
    · nofun
  · exact blockTurn_ne_noSuchPhase (phaseInv_congr rfl rfl rfl rfl rfl h)
  · exact outsideMove_ne_noSuchPhase _ _

theorem phase_idle_of_not_busy {s : State} (h : controlInv s) (hb : s.busy = false) : s.seq.phase = .idle := by
  obtain ⟨hbusy, -⟩ := h
  by_contra hp
  cases hb.symm.trans (hbusy.mpr hp)

/-- Settles O59: each turn keeps the phase invariant, and under it the instruction that is fetched goes on. -/
theorem phaseInvariantIsKeptAndSafe : Obligations.PhaseInvariantIsKeptAndSafe := by
  intro s hc h
  refine ⟨fun t ht => ?_, step_ne_noSuchPhase h⟩
  obtain ⟨-, u, hu, turn⟩ := step_cases ht
  have hb := phase_idle_of_not_busy hc
  rcases hu with rfl | ⟨m, rest, -, rfl⟩
  · exact turn_keeps_phaseInv hb h turn
  · exact turn_keeps_phaseInv (u := { s with moves := rest }) hb (phaseInv_congr rfl rfl rfl rfl rfl h) turn

end Sys2Proof.Machine
end

section
/-! SUPPORT. One step of a caller inside a transaction: what a call site does with a reply, and what the flags and TRACE
show after a transmitted byte, a poll, a STOP and a timeout, whoever the caller is. -/

namespace Sys2Proof.Machine

/-! ### What a call site does with a reply -/

/-- What every caller of a transaction procedure at call site `k` does with the reply: it makes no bus event, and after
a failure it leaves the bus registers as they are, but for an identity check that has an attempt left, which begins it
(R233). -/
structure CallerAt (k : Site) (reply : Reply → State → State) : Prop where
  quiet : ∀ r s, Quiet s (reply r s)
  failed : ∀ c s, (k = .identity → (s.ae.idtry + 1).toNat = s.cfg.idRetryMax) → (reply (.fail c) s).bt = s.bt
  again : ∀ c s, k = .identity → (s.ae.idtry + 1).toNat ≠ s.cfg.idRetryMax →
    reply (.fail c) s = identityRead { s with ae := { s.ae with idtry := s.ae.idtry + 1 } }

/-- The identity check after a failed read, its last attempt or not (R233). -/
theorem identityReply_fail (c : Code) (s : State) :
    identityReply (.fail c) s =
      if (s.ae.idtry + 1).toNat = s.cfg.idRetryMax then
        .ret (some c) { s with ae := { s.ae with idtry := s.ae.idtry + 1 } }
      else .run (identityRead { s with ae := { s.ae with idtry := s.ae.idtry + 1 } }) := rfl

theorem cmdReply_setup_fail_bt {s : State} (h : (s.ae.idtry + 1).toNat = s.cfg.idRetryMax) (c : Cfg) (k : Site)
    (code : Code) : (cmdReply c .setup k (.fail code) s).bt = s.bt := by
  simp only [cmdReply, identityReply_fail, if_pos h]
  rfl

theorem cmdReply_setup_fail_again {s : State} (h : (s.ae.idtry + 1).toNat ≠ s.cfg.idRetryMax) (c : Cfg) (k : Site)
    (code : Code) : cmdReply c .setup k (.fail code) s =
      identityRead { s with ae := { s.ae with idtry := s.ae.idtry + 1 } } := by
  simp only [cmdReply, identityReply_fail, if_neg h]
  rfl

/-- A command whose transaction has failed leaves the bus registers as they are (R278); SETUP has its attempts. -/
theorem cmdReply_fail_bt {i : Instr} (hi : i ≠ .setup) (c : Cfg) (k : Site) (code : Code) (s : State) :
    (cmdReply c i k (.fail code) s).bt = s.bt := by
  cases i
  case setup => exact absurd rfl hi
  case wrbit | wrbf | dwbf =>
    simp only [cmdReply]
    split <;> rfl
  all_goals rfl

theorem identity_owner {i : Instr} (h : ownsSite i .identity = true) : i = .setup := by
  cases i
  case setup => rfl
  all_goals exact Bool.noConfusion h

theorem cmdReply_callerAt {i : Instr} {k : Site} (hk : ownsSite i k = true) (c : Cfg) :
    CallerAt k (cmdReply c i k) := by
  refine ⟨cmdReply_quiet c i k, fun code s hl => ?_, fun code s he hl => ?_⟩
  · by_cases hi : i = .setup
    · subst hi
      exact cmdReply_setup_fail_bt (hl (by simpa [ownsSite] using hk)) c k code
    · exact cmdReply_fail_bt hi c k code s
  · subst he
    obtain rfl := identity_owner hk
    exact cmdReply_setup_fail_again hl c .identity code

theorem recReply_callerAt {i : Instr} {k : Site} (hi : i.isCommand = false) (hk : ownsSite i k = true) :
    CallerAt k (recReply i k) := by
  refine ⟨recReply_quiet i k, fun code s _ => ?_, fun code s he => ?_⟩
  · cases i
    case recData | recSpcInten => rfl
    all_goals cases hi
  · subst he
    obtain rfl := identity_owner hk
    cases hi

/-- A step inside a transaction is the procedure's step, with what the call site does with its reply. -/
theorem exec_site {i : Instr} {s : State} {here : Site → XferAt → Phase} {k : Site} {x : XferAt}
    (hh : here = .cmd ∨ here = .record) (hp : s.seq.phase = here k x) (hf : phaseFits i s.seq.phase = true) :
    ∃ reply, CallerAt k reply ∧ exec i s = .next (s.xfer x (here k) reply) := by
  rw [hp] at hf
  rcases hh with rfl | rfl <;> simp only [phaseFits, Bool.and_eq_true, Bool.not_eq_true'] at hf <;>
    obtain ⟨⟨hi, hk⟩, -⟩ := hf
  · exact ⟨_, cmdReply_callerAt hk s.cfg, exec_cmd hp hi hk⟩
  · exact ⟨_, recReply_callerAt hi hk, exec_record hp hi hk⟩

/-! ### The step of a caller by what its procedure comes to -/

section
variable {s u : State} {x y : XferAt} {r : Reply} {here : XferAt → Phase} {reply : Reply → State → State}

theorem State.xfer_hold (h : xferStep s x = .hold) : s.xfer x here reply = s := by simp only [State.xfer, h]

theorem State.xfer_go (h : xferStep s x = .go y u) : s.xfer x here reply = u.goto (here y) := by
  simp only [State.xfer, h]

theorem State.xfer_done (h : xferStep s x = .done r u) : s.xfer x here reply = reply r u := by
  simp only [State.xfer, h]

/-- A step that is not held ends in a state with no bus event after the procedure's own. -/
theorem State.xfer_quiet {k : Site} (hc : CallerAt k reply)
    (h : (∃ y, xferStep s x = .go y u) ∨ ∃ r, xferStep s x = .done r u) : Quiet u (s.xfer x here reply) := by
  rcases h with ⟨y, hy⟩ | ⟨r, hr⟩
  · rw [State.xfer_go hy]; exact Quiet.goto u _
  · rw [State.xfer_done hr]; exact hc.quiet r u

end

/-! ### What the flags and TRACE show -/

theorem stopRequested_stop (s : State) : stopRequested s s.stop := ⟨rfl, rfl, rfl, rfl, rfl⟩

theorem Quiet.stopRequested {s u t : State} (hq : Quiet u t) (h : stopRequested s u) : stopRequested s t := by
  obtain ⟨htr, hstp, htrx, hbb, hmst⟩ := h
  obtain ⟨qbb, qstp, qmst, qtrx⟩ := hq.wire
  exact ⟨hq.trace.trans htr, qstp.trans hstp, qtrx.trans htrx, qbb.trans hbb, qmst.trans hmst⟩

theorem Quiet.nack_clear {s t : State} (hq : Quiet s t) (h : s.bt.nack = false) : t.bt.nack = false :=
  Bool.eq_false_iff.mpr fun ht => Bool.eq_false_iff.mp h (hq.nack ht)

theorem Quiet.arbl_clear {s t : State} (hq : Quiet s t) (h : s.bt.arbl = false) : t.bt.arbl = false :=
  Bool.eq_false_iff.mpr fun ht => Bool.eq_false_iff.mp h (hq.arbl ht)

theorem Quiet.ardy_clear {s t : State} (hq : Quiet s t) (h : s.bt.ardy = false) : t.bt.ardy = false :=
  Bool.eq_false_iff.mpr fun ht => Bool.eq_false_iff.mp h (hq.ardy ht)

/-- A procedure returns Ok in the step of its STOP, and in no other (R152, R153). -/
theorem xferStep_done_ok {s u : State} {x : XferAt} {buf : List Byte} (h : xferStep s x = .done (.ok buf) u) :
    u = s.stop := by
  obtain ⟨hx, hb, -⟩ | ⟨hx, -⟩ := (xferStep_done h).2.1
  · subst hx
    simp only [xferStep, writeStep, hb, XferNext.done.injEq] at h
    exact h.2.symm
  · subst hx
    simp only [xferStep, readStep, XferNext.done.injEq] at h
    exact h.2.symm

/-- The STOP after a refused byte is requested in a step that clears NACK (R152, R153). -/
theorem xferStep_stop {s : State} {x : XferAt} (hx : x = .w .nackStop ∨ x = .w .payloadStop ∨ x = .r .nackStop) :
    ∃ u, ((∃ y, xferStep s x = .go y u) ∨ ∃ r, xferStep s x = .done r u) ∧ stopRequested s u ∧ u.bt.nack = false := by
  rcases hx with rfl | rfl | rfl
  · cases hr : s.bt.retry with
    | true =>
      refine ⟨s.stop.clearNack, .inr ⟨.fail .busNack, ?_⟩, stopRequested_stop s, rfl⟩
      simp [xferStep, writeStep, stopModes, hr]
    | false =>
      refine ⟨{ s.stop.clearNack with bt := writeAttempt { s.stop.clearNack.bt with retry := true } },
        .inl ⟨.w .start, ?_⟩, stopRequested_stop s, rfl⟩
      simp [xferStep, writeStep, stopModes, hr]
  · exact ⟨_, .inr ⟨_, rfl⟩, stopRequested_stop s, rfl⟩
  · exact ⟨_, .inr ⟨_, rfl⟩, stopRequested_stop s, rfl⟩

/-- The poll of phase 1 of a read, with an outcome ready (R149, R153). -/
theorem xferStep_poll {s : State} {ok : Bool} {rest : List Bool} (h : s.env.ready = ok :: rest) :
    ∃ y, xferStep s (.r .poll) = .go y s.pollReady.2 := by
  have hp : s.pollReady.1 = ok := by simp only [State.pollReady, Env.askReady_ready h]
  cases ok with
  | true => exact ⟨.r .stop1, by simp only [xferStep, readStep]; split <;> simp_all⟩
  | false => exact ⟨.r .timeout, by simp only [xferStep, readStep]; split <;> simp_all⟩

theorem State.polled_pollReady {s : State} {ok : Bool} {rest : List Bool} (h : s.env.ready = ok :: rest) :
    polled ok s s.pollReady.2 := by
  refine ⟨?_, ?_, rfl, rfl, rfl, rfl, rfl, rfl⟩
  · simp only [traced, State.pollReady_trace, Env.askReady_ready h]
  · simp only [State.pollReady_bt, Env.askReady_ready h]

theorem State.recovered_timeoutRecovery (s : State) : recovered s s.timeoutRecovery := by
  refine ⟨?_, ⟨rfl, rfl, rfl, rfl⟩, ⟨rfl, rfl⟩, ⟨rfl, rfl, rfl⟩, rfl, rfl, rfl⟩
  simp only [traced, State.timeoutRecovery_trace, List.append_assoc, List.cons_append, List.nil_append]

theorem Quiet.recovered {s u t : State} (hq : Quiet u t) (h : recovered s u) : recovered s t := by
  obtain ⟨htr, ⟨hini, hirs, hmst, htrx⟩, ⟨hstp, hbb⟩, ⟨hardy, hnack, harbl⟩, hpsc, hl, hh⟩ := h
  obtain ⟨qbb, qstp, qmst, qtrx⟩ := hq.wire
  obtain ⟨qpsc, ql, qh, qini, -, qirs⟩ := hq.controller
  exact ⟨hq.trace.trans htr, ⟨qini.trans hini, qirs.trans hirs, qmst.trans hmst, qtrx.trans htrx⟩,
    ⟨qstp.trans hstp, qbb.trans hbb⟩, ⟨hq.ardy_clear hardy, hq.nack_clear hnack, hq.arbl_clear harbl⟩,
    qpsc.trans hpsc, ql.trans hl, qh.trans hh⟩

/-! ### A transmitted byte -/

/-- From `s` to `u` the byte `b` has been answered on the bus, before the procedure does anything with the answer. -/
structure Transmitted (b : Byte) (ans : Answer) (s u : State) : Prop where
  bt : u.bt = noteAnswer ans (countTx s.bt)
  trace : u.trace = s.trace ++ [.tx b ans]
  ae : u.ae = s.ae
  cfg : u.cfg = s.cfg

theorem countTx_eq (b : BusRegs) : countTx b = { b with bcnt := if b.rm then b.bcnt else b.bcnt - 1 } := by
  unfold countTx
  split <;> rfl

/-- An answer that is no lost arbitration leaves the bus as it was, and a NACK is noted (R29, R145). -/
theorem Transmitted.kept {s u : State} {b : Byte} {ans : Answer} (h : Transmitted b ans s u) (ha : ans ≠ .arblost) :
    sameWire s u ∧ u.bt.arbl = s.bt.arbl ∧ u.bt.nack = (s.bt.nack || decide (ans = .nack)) := by
  simp only [sameWire, h.bt, countTx_eq]
  cases ans <;> simp_all [noteAnswer]

/-- Lost arbitration leaves BB and STP, clears MST and sets ARBL (R147). -/
theorem Transmitted.lost {s u : State} {b : Byte} (h : Transmitted b .arblost s u) :
    u.bt.bb = s.bt.bb ∧ u.bt.stp = s.bt.stp ∧ u.bt.mst = false ∧ u.bt.arbl = true := by
  simp only [h.bt, countTx_eq, noteAnswer, and_self]

/-- Wherever a byte is sent, a lost arbitration ends the procedure and any other answer goes on (R145, R147). -/
theorem xferStep_tx {s : State} {x : XferAt} {b : Byte} {ans : Answer} {rest : List Answer}
    (hb : byteSent s x = some b) (he : s.env.tx = ans :: rest) :
    ∃ u, Transmitted b ans s u ∧ (ans ≠ .arblost → ∃ y, xferStep s x = .go y u) ∧
      (ans = .arblost → xferStep s x = .done (.fail .arbLost) u.dropTrx) := by
  rcases x with (_ | _ | _ | _ | _) | (_ | _ | _ | _ | _ | _ | _ | _ | _) <;>
    simp only [byteSent, reduceCtorEq, Option.some.injEq] at hb
  case w.reg | r.reg =>
    subst hb
    obtain ⟨e, -, ht⟩ := State.tx_ready (b := s.bt.rega) he
    refine ⟨(s.tx s.bt.rega).2, ⟨by rw [ht], by rw [ht], rfl, rfl⟩, fun hn => ?_, fun ha => ?_⟩
    · cases ans with
      | ack | nack => exact ⟨_, by simp only [xferStep, writeStep, readStep, ht]; rfl⟩
      | arblost => exact absurd rfl hn
    · subst ha; simp only [xferStep, writeStep, readStep, ht]
  case w.data =>
    cases hx : s.seq.txbuf with
    | nil => rw [hx] at hb; cases hb
    | cons c cs =>
      rw [hx] at hb
      cases hb
      obtain ⟨e, -, ht⟩ := State.tx_ready (s := { s with seq := { s.seq with txbuf := cs } }) (b := b) he
      refine ⟨(State.tx { s with seq := { s.seq with txbuf := cs } } b).2,
        ⟨by rw [ht], by rw [ht], rfl, rfl⟩, fun hn => ?_, fun ha => ?_⟩
      · cases ans with
        | ack | nack => exact ⟨_, by simp only [xferStep, writeStep, hx, ht]; rfl⟩
        | arblost => exact absurd rfl hn
      · subst ha; simp only [xferStep, writeStep, hx, ht]

/-- After lost arbitration the receiver is the idle mode again, and only an identity check that has an attempt left
begins it (R147, R233). -/
theorem CallerAt.arbitrationLost {k : Site} {reply : Reply → State → State} (hc : CallerAt k reply) {s u : State}
    {b : Byte} (h : Transmitted b .arblost s u) : arbitrationLost k s (reply (.fail .arbLost) u.dropTrx) := by
  obtain ⟨-, -, hmst, harbl⟩ := h.lost
  obtain ⟨-, -, qmst, qtrx⟩ := (hc.quiet (.fail .arbLost) u.dropTrx).wire
  refine ⟨⟨qmst.trans hmst, qtrx⟩, fun hlast => ?_, fun hk hleft => ?_⟩
  · rw [hc.failed .arbLost u.dropTrx (by simpa [h.ae, h.cfg] using hlast)]
    exact harbl
  · rw [hc.again .arbLost u.dropTrx hk (by simpa [h.ae, h.cfg] using hleft)]
    refine ⟨rfl, congrArg (·.idtry + 1) h.ae, rfl, rfl, ⟨?_, ?_, rfl⟩, ⟨rfl, rfl⟩, rfl, rfl, rfl⟩
    · exact congrArg (·.dev.devaddr) h.cfg
    · exact congrArg (·.dev.raWhoAmI) h.cfg

/-- After a transmitted byte every caller shows the answer (R29, R145, R147). -/
theorem CallerAt.byteAnswered {k : Site} {reply : Reply → State → State} (hc : CallerAt k reply)
    (here : XferAt → Phase) {s : State} {x : XferAt} {b : Byte} {ans : Answer} {rest : List Answer}
    (hb : byteSent s x = some b) (he : s.env.tx = ans :: rest) : byteAnswered k b ans s (s.xfer x here reply) := by
  obtain ⟨u, hu, hgo, hlost⟩ := xferStep_tx hb he
  by_cases ha : ans = .arblost
  · subst ha
    rw [State.xfer_done (hlost rfl)]
    obtain ⟨hbb, hstp, -⟩ := hu.lost
    have hq := hc.quiet (.fail .arbLost) u.dropTrx
    obtain ⟨qbb, qstp, -⟩ := hq.wire
    exact ⟨hq.trace.trans hu.trace, qbb.trans hbb, qstp.trans hstp, fun hn => absurd rfl hn,
      fun _ => hc.arbitrationLost hu⟩
  · obtain ⟨y, hy⟩ := hgo ha
    rw [State.xfer_go hy]
    obtain ⟨hw, hflags⟩ := hu.kept ha
    exact ⟨hu.trace, hw.1, hw.2.1, fun _ => ⟨hw, hflags⟩, fun hl => absurd hl ha⟩

/-! ### The next state of every instruction -/

/-- Settles O16: an instruction goes on in every phase of its own, and inside a transaction its step is the procedure's
with a call site that makes no bus event of its own. -/
theorem everyInstructionHasANextState : Obligations.EveryInstructionHasANextState := by
  intro i s hf
  obtain ⟨t, ht⟩ := exec_next_of_phaseFits hf
  refine ⟨t, ht, fun here k x hh hp => ?_⟩
  obtain ⟨reply, hc, he⟩ := exec_site hh hp hf
  obtain rfl : s.xfer x (here k) reply = t := Host.Outcome.next.inj (he.symm.trans ht)
  refine ⟨fun hx => State.xfer_hold hx, fun y u hx => State.xfer_go hx, fun r u hx => ?_,
    fun b ans rest hb hr => hc.byteAnswered (here k) hb hr, fun ok rest hx hr => ?_, fun hx => ?_, fun hx => ?_,
    fun hx => ?_⟩
  · have hq := State.xfer_quiet (here := here k) hc (.inr ⟨r, hx⟩)
    refine ⟨hq.trace, hq.env, hq.wire, fun ⟨buf, hr⟩ => hq.stopRequested ?_⟩
    subst hr
    rw [xferStep_done_ok hx]
    exact stopRequested_stop s
  · subst hx
    obtain ⟨y, hy⟩ := xferStep_poll hr
    rw [State.xfer_go hy]
    exact State.polled_pollReady hr
  · obtain ⟨u, hu, hstop, hnack⟩ := xferStep_stop hx
    have hq := State.xfer_quiet (here := here k) hc hu
    exact ⟨hq.stopRequested hstop, hq.nack_clear hnack⟩
  · subst hx
    exact ⟨⟨rfl, rfl, rfl, rfl, rfl⟩, rfl⟩
  · subst hx
    exact (State.xfer_quiet (here := here k) hc (.inr ⟨_, rfl⟩)).recovered s.recovered_timeoutRecovery

end Sys2Proof.Machine
end

section
/-! SUPPORT. What one step of an instruction writes, said once: it ends its command, or it goes on and has written the
bus side of the state and the registers that the instruction owns (R38). -/

namespace Sys2Proof.Machine

/-! ### The registers an instruction owns -/

/-- `s` with the registers that an instruction owns beside the bus (R38) as they are in `t`. -/
def withOwned (i : Instr) (s t : State) : State :=
  match i with
  | .rdb _ _ _ => { s with pbuf := t.pbuf }
  | .upblk _ _ _ _ _ => { s with fp := { t.fp with ipos := s.fp.ipos, iend := s.fp.iend } }
  | .upimg _ _ _ =>
    { s with
      fp := { s.fp with ipos := t.fp.ipos, iend := t.fp.iend }, seq := { s.seq with imgVerify := t.seq.imgVerify } }
  | .setup =>
    { s with
      ae := { s.ae with devstat := t.ae.devstat, idtry := t.ae.idtry }
      fp := { s.fp with ipos := t.fp.ipos, iend := t.fp.iend }, seq := { s.seq with imgVerify := t.seq.imgVerify } }
  | .rdsmp =>
    { s with
      ae := { t.ae with
        devstat := s.ae.devstat, idtry := s.ae.idtry, avgn := s.ae.avgn, avgi := s.ae.avgi, acc := s.ae.acc }
      smpStatus := t.smpStatus, smp := t.smp }
  | .rdavg _ =>
    { s with
      ae := { t.ae with devstat := s.ae.devstat, idtry := s.ae.idtry }, smpStatus := t.smpStatus, smp := t.smp }
  | .recData _ _ _ => { s with fp := { t.fp with iend := s.fp.iend } }
  | .recSpcInten _ _ => { s with fp := { s.fp with ipos := t.fp.ipos } }
  | .init | .wrb _ _ _ | .rdbit _ _ _ | .wrbit _ _ _ _ | .wrbf _ _ _ _ _ => s
  | .dwb _ _ | .dwbf _ _ _ _ | .selbank _ _ _ | .setaddr _ => s

theorem withOwned_eq_of_onlyBus (i : Instr) {s t : State} (h : OnlyBus s t) : withOwned i s t = s := by
  cases i <;> simp only [withOwned, h.pbuf, h.fp, h.ae, h.smpStatus, h.smp, h.imgVerify]

theorem withOwned_busy (i : Instr) (s t : State) : (withOwned i s t).busy = s.busy := by
  cases i <;> rfl

theorem withOwned_result (i : Instr) (s t : State) : (withOwned i s t).result = s.result := by
  cases i <;> rfl

/-- The registers owned are the same part of the state, whatever the bus has done before. -/
theorem OnlyBus.withOwned {s u : State} (i : Instr) (h : OnlyBus s u) (t : State) :
    OnlyBus (withOwned i s t) (withOwned i u t) := by
  obtain ⟨cfg, cmdr, busy, result, fp, ae, smpStatus, smp, pbuf, img, epoch, moves, imgVerify, trace⟩ := h
  cases i <;> simp only [Machine.withOwned, fp, ae] <;> constructor <;> first | assumption | rfl

/-- Assignments to the bus registers and the sequencer alone. -/
theorem OnlyBus.of_eq {s t : State} {b : BusRegs} {p : Phase} {tx rx : List Byte}
    (h : t = { s with bt := b, seq := { s.seq with phase := p, txbuf := tx, rbuf := rx } }) : OnlyBus s t := by
  subst h
  exact ⟨rfl, rfl, rfl, rfl, rfl, rfl, rfl, rfl, rfl, rfl, rfl, rfl, rfl, [], (List.append_nil _).symm⟩

/-- From `s` to `t` the instruction's command still runs, and beside the bus only what the instruction owns has been
written. -/
structure GoesOn (i : Instr) (s t : State) : Prop where
  running : t.seq.phase ≠ .idle
  owned : OnlyBus (withOwned i s t) t

theorem GoesOn.of_onlyBus {i : Instr} {s t : State} (h : OnlyBus s t) (hp : t.seq.phase ≠ .idle) : GoesOn i s t :=
  ⟨hp, by rw [withOwned_eq_of_onlyBus i h]; exact h⟩

theorem GoesOn.after_bus {i : Instr} {s u t : State} (h : OnlyBus s u) (k : GoesOn i u t) : GoesOn i s t :=
  ⟨k.running, (h.withOwned i t).trans k.owned⟩

theorem GoesOn.goto {i : Instr} {s : State} {p : Phase} (hp : p ≠ .idle) : GoesOn i s (s.goto p) :=
  .of_onlyBus (.goto s p) hp

/-! ### The replies of the commands -/

theorem endWith_goesOn (i : Instr) (r : Reply) (s : State) : GoesOn i s (endWith r s) := by
  cases r <;> exact .goto nofun

theorem rmwReadReply_goesOn (i : Instr) (sa : BitVec 7) (reg : Byte) (start width : Nat) (value : Byte) (r : Reply)
    (s : State) : GoesOn i s (rmwReadReply sa reg start width value r s) := by
  cases r with
  | ok buf => exact .of_onlyBus (.writeBack _ _ _ _ _ _ _ _) nofun
  | fail c => exact .goto nofun

theorem OnlyUpload.goto {s t : State} (h : OnlyUpload s t) (p : Phase) : OnlyUpload s (t.goto p) :=
  h.trans (.of_bus (.goto t p) (.refl _))

theorem OnlyUpload.upblk_goesOn {v : BitVec 1} {bank : BitVec 5} {offs : Byte} {size src : BitVec 16} {s t : State}
    (h : OnlyUpload s t) (hp : t.seq.phase ≠ .idle) : GoesOn (.upblk v bank offs size src) s t :=
  ⟨hp, by simp only [withOwned, ← h.ipos, ← h.iend]; exact h.bus⟩

theorem OnlyUpload.recData_goesOn {bank offs : Byte} {data : List Byte} {s t : State}
    (h : OnlyUpload s t) (hp : t.seq.phase ≠ .idle) : GoesOn (.recData bank offs data) s t :=
  ⟨hp, by simp only [withOwned, ← h.iend]; exact h.bus⟩

theorem ProcNext.enters.running {here : Site → XferAt → Phase} {own : Site → Bool} {t : State}
    (h : (ProcNext.run t).enters here own) (hh : ∀ k x, here k x ≠ .idle) : t.seq.phase ≠ .idle := by
  obtain ⟨k, x, hp, -⟩ := h
  rw [hp]
  exact hh k x

/-- A block upload that UPBLK runs goes on, or ends the command. -/
theorem ProcNext.elim_upblk_goesOn {v : BitVec 1} {bank : BitVec 5} {offs : Byte} {size src : BitVec 16} {s : State}
    {p : ProcNext} (hu : OnlyUpload s p.state) (hp : p.enters .cmd Site.ofUpload) (code : Code) :
    GoesOn (.upblk v bank offs size src) s (p.elim (endUpload code)) := by
  refine ProcNext.elim_of (fun t h => ?_) (fun r t h => ?_)
  · subst h; exact hu.upblk_goesOn (hp.running nofun)
  · subst h; cases r <;> exact (hu.goto _).upblk_goesOn nofun

theorem recordDone_goesOn {bank offs : Byte} {data : List Byte} {s t : State} (h : OnlyUpload s t) (size : Nat) :
    GoesOn (.recData bank offs data) s (recordDone size t) := by
  refine ⟨nofun, ?_⟩
  obtain ⟨cfg, cmdr, busy, result, -, ae, smpStatus, smp, pbuf, img, epoch, moves, imgVerify, trace⟩ := h.bus
  refine ⟨cfg, cmdr, busy, result, ?_, ae, smpStatus, smp, pbuf, img, epoch, moves, imgVerify, trace⟩
  simp only [withOwned, recordDone_fp, h.iend]

/-- A block upload that a data record runs goes on, or ends the record. -/
theorem ProcNext.elim_recData_goesOn {bank offs : Byte} {data : List Byte} {s : State} {p : ProcNext}
    (hu : OnlyUpload s p.state) (hp : p.enters .record Site.ofUpload) (size : Nat) :
    GoesOn (.recData bank offs data) s (p.elim (recordEnd size)) := by
  refine ProcNext.elim_of (fun t h => ?_) (fun r t h => ?_)
  · subst h; exact hu.recData_goesOn (hp.running nofun)
  · subst h
    cases r with
    | none => exact recordDone_goesOn hu size
    | some c => exact (hu.goto _).recData_goesOn nofun

/-- A step that beside the bus writes the sample and the AcquisitionEngine's registers, but not DEVSTAT and IDTRY, is
one of RDAVG's. -/
theorem GoesOn.rdavg {n : BitVec 16} {s t : State}
    (h : OnlyBus { s with ae := t.ae, smpStatus := t.smpStatus, smp := t.smp } t)
    (hd : t.ae.devstat = s.ae.devstat) (hi : t.ae.idtry = s.ae.idtry) (hp : t.seq.phase ≠ .idle) :
    GoesOn (.rdavg n) s t :=
  ⟨hp, by simp only [withOwned, ← hd, ← hi]; exact h⟩

/-- Where it leaves RDAVG's registers too, it is one of RDSMP's. -/
theorem GoesOn.rdsmp {s t : State} (h : OnlyBus { s with ae := t.ae, smpStatus := t.smpStatus, smp := t.smp } t)
    (hd : t.ae.devstat = s.ae.devstat) (hi : t.ae.idtry = s.ae.idtry) (ha : sameAverages s t)
    (hp : t.seq.phase ≠ .idle) : GoesOn .rdsmp s t := by
  obtain ⟨hn, hj, hc⟩ := ha
  exact ⟨hp, by simp only [withOwned, ← hd, ← hi, ← hn, ← hj, ← hc]; exact h⟩

/-- A sample read goes on without touching the sample. -/
theorem OnlySample.sampleBus {s t : State} (h : OnlySample s t) :
    OnlyBus { s with ae := t.ae, smpStatus := t.smpStatus, smp := t.smp } t := by
  rw [h.bus.smpStatus, h.bus.smp]
  exact h.bus

theorem ProcNext.elim_rdsmp_goesOn {s : State} {p : ProcNext} (hu : OnlySample s p.state)
    (hp : p.enters .cmd Site.ofSample) : GoesOn .rdsmp s (p.elim singleSampleEnd) := by
  obtain ⟨cfg, cmdr, busy, result, fp, -, -, -, pbuf, img, epoch, moves, imgVerify, trace⟩ := hu.bus
  refine ProcNext.elim_of (fun t h => ?_) (fun r t h => ?_) <;> subst h
  · exact .rdsmp hu.sampleBus hu.devstat hu.idtry ⟨hu.avgn, hu.avgi, hu.acc⟩
      (hp.running nofun)
  · cases r <;>
      exact .rdsmp ⟨cfg, cmdr, busy, result, fp, rfl, rfl, rfl, pbuf, img, epoch, moves, imgVerify, trace⟩
        hu.devstat hu.idtry ⟨hu.avgn, hu.avgi, hu.acc⟩ nofun

theorem ProcNext.elim_rdavg_goesOn {n : BitVec 16} {s : State} {p : ProcNext} (hu : OnlySample s p.state)
    (hp : p.enters .cmd Site.ofSample) : GoesOn (.rdavg n) s (p.elim averageSampleEnd) := by
  obtain ⟨cfg, cmdr, busy, result, fp, -, -, -, pbuf, img, epoch, moves, imgVerify, trace⟩ := hu.bus
  refine ProcNext.elim_of (fun t h => ?_) (fun r t h => ?_) <;> subst h
  · exact .rdavg hu.sampleBus hu.devstat hu.idtry (hp.running nofun)
  · cases r with
    | some c =>
      exact .rdavg ⟨cfg, cmdr, busy, result, fp, rfl, rfl, rfl, pbuf, img, epoch, moves, imgVerify, trace⟩
        hu.devstat hu.idtry nofun
    | none =>
      simp only [averageSampleEnd]
      split <;>
        exact .rdavg ⟨cfg, cmdr, busy, result, fp, rfl, rfl, rfl, pbuf, img, epoch, moves, imgVerify, trace⟩
          hu.devstat hu.idtry nofun

/-- SETUP goes on with another identity read, with the image, or with its failure. -/
theorem identityReply_goesOn (r : Reply) (s : State) : GoesOn .setup s ((identityReply r s).elim setupIdentified) := by
  simp only [identityReply]
  (repeat' split) <;> exact ⟨nofun, .of_eq rfl⟩

/-- What a command does with a reply writes only what the command owns. -/
theorem cmdReply_goesOn (c : Cfg) (i : Instr) (k : Site) (r : Reply) (s : State) : GoesOn i s (cmdReply c i k r s) := by
  cases i
  case rdb =>
    cases r with
    | ok buf =>
      exact ⟨nofun, .of_eq rfl⟩
    | fail c => exact .goto nofun
  case rdbit =>
    cases r with
    | ok buf =>
      exact ⟨nofun, .of_eq rfl⟩
    | fail c => exact .goto nofun
  case wrbit | wrbf | dwbf =>
    simp only [cmdReply]
    split
    · exact rmwReadReply_goesOn _ _ _ _ _ _ r s
    · exact endWith_goesOn _ r s
  case upblk => exact ProcNext.elim_upblk_goesOn (blockReply_onlyUpload .cmd k r s) (blockReply_enters .cmd k r s) _
  case setup => exact identityReply_goesOn r s
  case rdsmp => exact ProcNext.elim_rdsmp_goesOn (sampleReply_onlySample k r s) (sampleReply_enters k r s)
  case rdavg => exact ProcNext.elim_rdavg_goesOn (sampleReply_onlySample k r s) (sampleReply_enters k r s)
  all_goals exact endWith_goesOn _ r s

/-! ### The other steps -/

theorem recSpcInten_goesOn (bank offs : Byte) (k : Site) (r : Reply) (s : State) :
    GoesOn (.recSpcInten bank offs) s (recReply (.recSpcInten bank offs) k r s) := by
  cases r with
  | ok buf =>
    exact ⟨nofun, .of_eq rfl⟩
  | fail c => exact .goto nofun

/-- What a record does with a reply writes only what the record owns. -/
theorem recReply_goesOn {i : Instr} (hi : i.isCommand = false) (k : Site) (r : Reply) (s : State) :
    GoesOn i s (recReply i k r s) := by
  cases i
  case recData =>
    exact ProcNext.elim_recData_goesOn (blockReply_onlyUpload .record k r s) (blockReply_enters .record k r s) _
  case recSpcInten bank offs => exact recSpcInten_goesOn bank offs k r s
  all_goals cases hi

theorem imageStep_goesOn {i : Instr} (hi : runsImage i = true ∨ i.isCommand = false) (s : State) :
    GoesOn i s (imageStep i s) := by
  cases i
  case recData =>
    simp only [imageStep]
    split
    · exact .goto nofun
    · exact ProcNext.elim_recData_goesOn (blockEnter_onlyUpload .record _ _ _ _ _ s) (blockHead_enters .record _) _
  case recSpcInten => exact .of_onlyBus (.beginWrite _ _ _ _ _) nofun
  case upimg | setup => exact .goto nofun
  all_goals exact absurd hi (by simp [runsImage, Instr.isCommand])

theorem imageDoneStep_goesOn {i : Instr} (hi : runsImage i = true) (r : Option Code) (s : State) :
    GoesOn i s (imageDoneStep i r s) := by
  cases i
  case upimg => cases r <;> exact .goto nofun
  case setup =>
    cases r <;>
      exact ⟨nofun, .of_eq rfl⟩
  all_goals cases hi

/-- A step of an instruction ends the command, or goes on. -/
def EndsOrGoesOn (i : Instr) (s t : State) : Prop := (∃ e, t = s.finish e) ∨ GoesOn i s t

theorem State.fail_ends (i : Instr) (s : State) (code cause : Code) : EndsOrGoesOn i s (s.fail code cause) :=
  .inl ⟨.fail code cause, rfl⟩

theorem State.ifInitd_endsOrGoesOn {i : Instr} {s : State} {go : State → State} (h : GoesOn i s (go s)) :
    EndsOrGoesOn i s (s.ifInitd go) := by
  unfold State.ifInitd
  split
  · exact .inr h
  · exact s.fail_ends i _ _

theorem State.busStart_onlyBus (s : State) : OnlyBus s s.busReset.busInit :=
  ⟨rfl, rfl, rfl, rfl, rfl, rfl, rfl, rfl, rfl, rfl, rfl, rfl, rfl, [.reset, .init], by
    rw [State.busInit_trace, State.busReset_trace, List.append_assoc]; rfl⟩

theorem acceptStep_endsOrGoesOn {i : Instr} (hi : i.isCommand = true) (s : State) :
    EndsOrGoesOn i s (acceptStep i s) := by
  cases i <;> simp only [acceptStep]
  case init => exact .inr (.of_onlyBus (s.busStart_onlyBus.trans (.goto _ _)) nofun)
  case setup =>
    exact .inr (.after_bus s.busStart_onlyBus
      ⟨nofun, .of_eq rfl⟩)
  case rdbit => exact s.ifInitd_endsOrGoesOn (.of_onlyBus (.beginRead _ _ _ _ _) nofun)
  case dwb | selbank | setaddr => exact s.ifInitd_endsOrGoesOn (.of_onlyBus (.beginWrite _ _ _ _ _) nofun)
  case recData | recSpcInten => cases hi
  case wrb =>
    split
    · exact s.fail_ends _ _ _
    · exact s.ifInitd_endsOrGoesOn (.of_onlyBus (.beginWrite _ _ _ _ _) nofun)
  case rdb | wrbit | wrbf | dwbf =>
    split
    · exact s.fail_ends _ _ _
    · exact s.ifInitd_endsOrGoesOn (.of_onlyBus (.beginRead _ _ _ _ _) nofun)
  case upblk =>
    split
    · exact s.fail_ends _ _ _
    · split
      · exact s.fail_ends _ _ _
      · exact s.ifInitd_endsOrGoesOn
          (ProcNext.elim_upblk_goesOn (blockEnter_onlyUpload .cmd _ _ _ _ _ s) (blockHead_enters .cmd _) _)
  case upimg =>
    split
    · exact s.fail_ends _ _ _
    · exact s.ifInitd_endsOrGoesOn
        ⟨nofun, .of_eq rfl⟩
  case rdsmp =>
    split
    · exact s.fail_ends _ _ _
    · exact .inr (.of_onlyBus (.beginRead _ _ _ _ _) nofun)
  case rdavg =>
    split
    · exact s.fail_ends _ _ _
    · split
      · exact s.fail_ends _ _ _
      · exact .inr
          ⟨nofun, .of_eq rfl⟩

theorem State.xfer_goesOn {i : Instr} {s : State} {x : XferAt} {here : XferAt → Phase} {reply : Reply → State → State}
    (hs : s.seq.phase ≠ .idle) (hh : ∀ y, here y ≠ .idle) (hr : ∀ r u, GoesOn i u (reply r u)) :
    GoesOn i s (s.xfer x here reply) :=
  State.xfer_of (.of_onlyBus (.refl s) hs)
    (fun y _ hy => .of_onlyBus ((xferStep_go hy).2.1.trans (.goto _ _)) (hh y))
    (fun r u hu => (hr r u).after_bus (xferStep_done hu).1)

/-- One step of an instruction ends its command, or the command still runs and only what the instruction owns has been
written. -/
theorem exec_endsOrGoesOn {i : Instr} {s t : State} (h : exec i s = .next t) : EndsOrGoesOn i s t := by
  rcases exec_cases h with ⟨-, hi, rfl⟩ | ⟨k, x, hp, -, -, rfl⟩ | ⟨-, hi, rfl⟩ | ⟨k, x, hp, hi, -, rfl⟩ |
    ⟨r, -, hi, rfl⟩ | ⟨e, -, -, rfl⟩
  · exact acceptStep_endsOrGoesOn hi s
  · exact .inr (State.xfer_goesOn (by rw [hp]; nofun) (fun _ => nofun) (cmdReply_goesOn s.cfg i k))
  · exact .inr (imageStep_goesOn hi s)
  · exact .inr (State.xfer_goesOn (by rw [hp]; nofun) (fun _ => nofun) (recReply_goesOn hi k))
  · exact .inr (imageDoneStep_goesOn hi r s)
  · exact .inl ⟨e, rfl⟩

end Sys2Proof.Machine
end

section
/-! SUPPORT. The controller: when an instruction changes its configuration and INITD, what the control invariant says of
each kind of step, and that every turn of an agent keeps it. -/

namespace Sys2Proof.Machine

/-! ### When the controller changes -/

/-- The controller is as BusInit leaves it: out of reset and initialised, with no interrupt enabled (R141). -/
structure FreshController (t : State) : Prop where
  initd : t.bt.initd = true
  irs : t.bt.irs = true
  qen : t.bt.qen = false

theorem FreshController.busInit (s : State) : FreshController s.busInit := ⟨rfl, rfl, rfl⟩

theorem Quiet.freshController {s t : State} (hq : Quiet s t) (h : FreshController s) : FreshController t := by
  obtain ⟨-, -, -, hinit, hqen, hirs⟩ := hq.controller
  exact ⟨hinit.trans h.initd, hirs.trans h.irs, hqen.trans h.qen⟩

theorem SameControl.sameController {s t : State} (h : SameControl s.bt t.bt) : sameController s t :=
  ⟨h.clkpsc, h.clkl, h.clkh, h.initd, h.qen, h.irs⟩

theorem sameController.trans {s t u : State} (h : sameController s t) (k : sameController t u) :
    sameController s u := by
  obtain ⟨hpsc, hl, hh, hini, hqen, hirs⟩ := h
  obtain ⟨kpsc, kl, kh, kini, kqen, kirs⟩ := k
  exact ⟨kpsc.trans hpsc, kl.trans hl, kh.trans hh, kini.trans hini, kqen.trans hqen, kirs.trans hirs⟩

theorem State.finish_quiet (s : State) (e : Ending) : Quiet s (s.finish e) := by
  cases e <;> exact .of_sameBus ⟨rfl, rfl, rfl, rfl⟩ rfl rfl rfl rfl

theorem State.fail_quiet (s : State) (code cause : Code) : Quiet s (s.fail code cause) :=
  s.finish_quiet (.fail code cause)

theorem State.ifInitd_quiet {s : State} {go : State → State} (h : Quiet s (go s)) : Quiet s (s.ifInitd go) := by
  unfold State.ifInitd
  split
  · exact h
  · exact s.fail_quiet _ _

/-- The checks and the entry of a command make no bus event, but for INIT and SETUP (R141, R232). -/
theorem acceptStep_quiet {i : Instr} (hi : i ≠ .init) (hs : i ≠ .setup) (s : State) : Quiet s (acceptStep i s) := by
  cases i <;> simp only [acceptStep]
  case init => exact absurd rfl hi
  case setup => exact absurd rfl hs
  case rdbit => exact s.ifInitd_quiet (.beginRead _ _ _ _ _)
  case dwb | selbank | setaddr => exact s.ifInitd_quiet (.beginWrite _ _ _ _ _)
  case recData | recSpcInten => exact .refl s
  case wrb =>
    split
    · exact s.fail_quiet _ _
    · exact s.ifInitd_quiet (.beginWrite _ _ _ _ _)
  case rdb | wrbit | wrbf | dwbf =>
    split
    · exact s.fail_quiet _ _
    · exact s.ifInitd_quiet (.beginRead _ _ _ _ _)
  case upblk =>
    split
    · exact s.fail_quiet _ _
    · split
      · exact s.fail_quiet _ _
      · exact s.ifInitd_quiet ((blockEnter_quiet _ _ _ _ _ _ s).elim (endUpload_quiet _))
  case upimg =>
    split
    · exact s.fail_quiet _ _
    · exact s.ifInitd_quiet (.of_sameBus ⟨rfl, rfl, rfl, rfl⟩ rfl rfl rfl rfl)
  case rdsmp =>
    split
    · exact s.fail_quiet _ _
    · exact .beginRead _ _ _ _ _
  case rdavg =>
    split
    · exact s.fail_quiet _ _
    · split
      · exact s.fail_quiet _ _
      · exact (Quiet.setAe _ _).trans (.beginRead _ _ _ _ _)

theorem acceptStep_freshController {i : Instr} (hi : i = .init ∨ i = .setup) (s : State) :
    FreshController (acceptStep i s) := by
  rcases hi with rfl | rfl <;> exact ⟨rfl, rfl, rfl⟩

/-- A caller inside a transaction leaves the controller as it is, but at a timeout, whose recovery initialises it
(R151). -/
theorem State.xfer_controller {s : State} {x : XferAt} {here : XferAt → Phase} {reply : Reply → State → State}
    (hq : ∀ r u, Quiet u (reply r u)) :
    sameController s (s.xfer x here reply) ∨ x = .r .timeout ∧ FreshController (s.xfer x here reply) := by
  by_cases hx : x = .r .timeout
  · subst hx
    exact .inr ⟨rfl, (hq _ _).freshController (FreshController.busInit _)⟩
  · refine .inl (State.xfer_of (P := sameController s) ⟨rfl, rfl, rfl, rfl, rfl, rfl⟩ (fun y t hy => ?_)
      (fun r t ht => ?_))
    · exact (xferStep_go hy).2.2.1.sameController.trans (Quiet.goto t _).controller
    · exact ((xferStep_done ht).2.2 hx).sameController.trans (hq r t).controller

/-- Where an instruction initialises the controller: the first step of INIT and SETUP, and a timeout recovery (R38). -/
def InitialisesController (i : Instr) (p : Phase) : Prop :=
  (p = .accepted ∧ (i = .init ∨ i = .setup)) ∨ ∃ k, p = .cmd k (.r .timeout) ∨ p = .record k (.r .timeout)

theorem exec_controller {i : Instr} {s t : State} (h : exec i s = .next t) :
    sameController s t ∨ InitialisesController i s.seq.phase ∧ FreshController t := by
  rcases exec_cases h with ⟨hp, -, rfl⟩ | ⟨k, x, hp, -, -, rfl⟩ | ⟨-, -, rfl⟩ | ⟨k, x, hp, -, -, rfl⟩ |
    ⟨r, -, -, rfl⟩ | ⟨e, -, -, rfl⟩
  · by_cases hi : i = .init ∨ i = .setup
    · exact .inr ⟨.inl ⟨hp, hi⟩, acceptStep_freshController hi s⟩
    · rw [not_or] at hi
      exact .inl (acceptStep_quiet hi.1 hi.2 s).controller
  · refine (State.xfer_controller (cmdReply_quiet s.cfg i k)).imp_right fun ⟨hx, hf⟩ => ⟨.inr ⟨k, .inl ?_⟩, hf⟩
    rw [hp, hx]
  · exact .inl (imageStep_quiet i s).controller
  · refine (State.xfer_controller (recReply_quiet i k)).imp_right fun ⟨hx, hf⟩ => ⟨.inr ⟨k, .inr ?_⟩, hf⟩
    rw [hp, hx]
  · exact .inl (imageDoneStep_quiet i r s).controller
  · exact .inl (s.finish_quiet e).controller

/-! ### DEVSTAT and INITD -/

theorem withOwned_devstat {i : Instr} (hi : i ≠ .setup) (s t : State) :
    (withOwned i s t).ae.devstat = s.ae.devstat ∧ (withOwned i s t).ae.idtry = s.ae.idtry := by
  cases i
  case setup => exact absurd rfl hi
  all_goals exact ⟨rfl, rfl⟩

/-- SETUP alone writes DEVSTAT and IDTRY (R231). -/
theorem EndsOrGoesOn.devstat {i : Instr} {s t : State} (hi : i ≠ .setup) (h : EndsOrGoesOn i s t) :
    t.ae.devstat = s.ae.devstat ∧ t.ae.idtry = s.ae.idtry := by
  rcases h with ⟨e, rfl⟩ | h
  · cases e <;> exact ⟨rfl, rfl⟩
  · rw [h.owned.ae]; exact withOwned_devstat hi s t

/-- DEVSTAT changes only in a step at the bus (R231, R232). -/
theorem exec_devstat {i : Instr} {s t : State} (h : exec i s = .next t) :
    t.ae.devstat = s.ae.devstat ∨ s.seq.phase.usesBus = true := by
  by_cases hi : i = .setup
  · subst hi
    rcases exec_cases h with ⟨-, -, rfl⟩ | ⟨k, x, hp, -⟩ | ⟨hp, -⟩ | ⟨k, x, hp, -⟩ | ⟨r, hp, -⟩ | ⟨e, -, -, rfl⟩
    case inl => exact .inl rfl
    case inr.inr.inr.inr.inr => cases e <;> exact .inl rfl
    all_goals (rw [hp]; exact .inr rfl)
  · exact .inl ((exec_endsOrGoesOn h).devstat hi).1

theorem State.ifInitd_usesBus {s : State} {go : State → State} (h : (s.ifInitd go).seq.phase.usesBus = true) :
    s.bt.initd = true := by
  by_contra hn
  rw [State.ifInitd, if_neg hn] at h
  cases h

/-- A command that goes to the bus has found INITD or DMPReady, but for INIT and SETUP (R140, R231). -/
theorem acceptStep_usesBus {i : Instr} {s : State} (hi : i ≠ .setup) (hc : i.isCommand = true)
    (h : (acceptStep i s).seq.phase.usesBus = true) : s.bt.initd = true ∨ s.ae.devstat = .dmpReady := by
  cases i <;> simp only [acceptStep] at h
  case setup => exact absurd rfl hi
  case recData | recSpcInten => cases hc
  case init => cases h
  case rdbit | dwb | selbank | setaddr => exact .inl (State.ifInitd_usesBus h)
  case wrb | rdb | wrbit | wrbf | dwbf | upimg =>
    split at h
    · cases h
    · exact .inl (State.ifInitd_usesBus h)
  case upblk =>
    split at h
    · cases h
    · split at h
      · cases h
      · exact .inl (State.ifInitd_usesBus h)
  case rdsmp =>
    split at h
    · cases h
    · exact .inr (not_not.mp ‹_›)
  case rdavg =>
    split at h
    · cases h
    · split at h
      · cases h
      · exact .inr (not_not.mp ‹_›)

/-! ### The control invariant -/

theorem controlInv_of_idle {t : State} (hp : t.seq.phase = .idle) (hb : t.busy = false) (hq : t.bt.qen = false)
    (hr : t.bt.irs = t.bt.initd) (hd : t.ae.devstat ≠ .disconnected → t.bt.initd = true) : controlInv t :=
  ⟨by simp [hp, hb], by simp [hb], hq, hr, hd, by simp [hp, Phase.usesBus]⟩

/-- Whatever leaves BUSY, RESULT, the phase, the controller and DEVSTAT as they are keeps the control invariant. -/
theorem controlInv_congr {s t : State} (hb : t.busy = s.busy) (hr : t.result = s.result)
    (hp : t.seq.phase = s.seq.phase) (hc : sameController s t) (ha : t.ae = s.ae) (h : controlInv s) :
    controlInv t := by
  obtain ⟨-, -, -, hinit, hqen, hirs⟩ := hc
  simpa only [controlInv, hb, hr, hp, hinit, hqen, hirs, ha] using h

/-- After a step of an instruction a command that is at the bus has INITD (R140). -/
theorem exec_usesBus_initd {i : Instr} {s t : State} (hs : controlInv s) (h : exec i s = .next t)
    (ht : t.seq.phase.usesBus = true) : t.bt.initd = true := by
  obtain ⟨-, -, -, -, hdev, hbus⟩ := hs
  rcases exec_controller h with ⟨-, -, -, hinit, -⟩ | ⟨hi, hf⟩
  · rw [hinit]
    rcases exec_cases h with ⟨hp, hi, rfl⟩ | ⟨k, x, hp, -⟩ | ⟨hp, -⟩ | ⟨k, x, hp, -⟩ | ⟨r, hp, -⟩ | ⟨e, -, -, rfl⟩
    case inl =>
      by_cases hset : i = .setup
      · subst hset; exact hinit.symm
      · rcases acceptStep_usesBus hset hi ht with hini | hready
        · exact hini
        · exact hdev (by rw [hready]; nofun)
    case inr.inr.inr.inr.inr => cases e <;> cases ht
    all_goals exact hbus (by rw [hp]; rfl)
  · exact hf.initd

theorem exec_keeps_controlInv {i : Instr} {s t : State} (hp : s.seq.phase ≠ .idle) (hs : controlInv s)
    (h : exec i s = .next t) : controlInv t := by
  have husesBus := exec_usesBus_initd hs h
  obtain ⟨hbusy, hvalid, hqen, hirs, hdev, hbus⟩ := hs
  have hctl : t.bt.qen = false ∧ t.bt.irs = t.bt.initd ∧ (s.bt.initd = true → t.bt.initd = true) := by
    rcases exec_controller h with ⟨-, -, -, hi, hq, hr⟩ | ⟨-, hf⟩
    · exact ⟨hq.trans hqen, by rw [hr, hi, hirs], hi.trans⟩
    · exact ⟨hf.qen, hf.irs.trans hf.initd.symm, fun _ => hf.initd⟩
  obtain ⟨tqen, tirs, tinit⟩ := hctl
  have tdev : t.ae.devstat ≠ .disconnected → t.bt.initd = true := fun hd => tinit <|
    (exec_devstat h).elim (fun he => hdev (he ▸ hd)) hbus
  rcases exec_endsOrGoesOn h with ⟨e, rfl⟩ | hg
  · cases e <;> exact controlInv_of_idle rfl rfl tqen tirs tdev
  · have tbusy : t.busy = true := by
      rw [hg.owned.busy, withOwned_busy]; exact hbusy.mpr hp
    refine ⟨by simp [tbusy, hg.running], fun _ => ?_, tqen, tirs, tdev, husesBus⟩
    rw [hg.owned.result, withOwned_result]
    exact hvalid (hbusy.mpr hp)

/-- Every turn of an agent keeps the control invariant. -/
theorem turn_keeps_controlInv {u t : State} (h : controlInv u) (ht : Turn u t) : controlInv t := by
  have hsame : ∀ {t : State}, t.busy = u.busy → t.result = u.result → t.seq.phase = u.seq.phase →
      sameController u t → t.ae = u.ae → controlInv t := fun hb hr hp hc ha => controlInv_congr hb hr hp hc ha h
  have hfixed : sameController u u := ⟨rfl, rfl, rfl, rfl, rfl, rfl⟩
  cases ht with
  | stay => exact h
  | lift => rw [liftHold_eq]; exact hsame rfl rfl rfl hfixed rfl
  | run i t hp hf he => exact exec_keeps_controlInv hp h he
  | reject =>
    obtain ⟨-, -, hqen, hirs, hdev, -⟩ := h
    exact controlInv_of_idle rfl rfl hqen hirs hdev
  | accept d hb =>
    obtain ⟨-, -, hqen, hirs, hdev, -⟩ := h
    exact ⟨by simp, fun _ => rfl, hqen, hirs, hdev, nofun⟩
  | pbuf | img | stopped | foreign => exact hsame rfl rfl rfl hfixed rfl
  | reset => exact controlInv_of_idle rfl rfl rfl rfl (absurd rfl)

theorem turn_keeps_cfg {u t : State} (ht : Turn u t) : t.cfg = u.cfg := by
  cases ht with
  | lift => rw [liftHold_eq]; rfl
  | run i t hp hf he => exact (exec_keepsProgram he).fixed.1
  | _ => rfl

/-- A step is one turn of an agent, from a state that differs at most in the moves to come: what no turn breaks and no
agenda matters to, no step breaks. -/
theorem step_keeps {P : State → Prop} (hm : ∀ s rest, P s → P { s with moves := rest })
    (ht : ∀ u t, cfgLegal u.cfg = true → P u → Turn u t → P t) {s t : State} (hs : P s) (h : step s = .next t) :
    P t := by
  obtain ⟨hc, u, rfl | ⟨m, rest, -, rfl⟩, turn⟩ := step_cases h
  · exact ht _ _ hc hs turn
  · exact ht { s with moves := rest } _ hc (hm s rest hs) turn

/-- Settles O55: each turn keeps the control invariant, and CFG. -/
theorem controlInvariantIsKept : Obligations.ControlInvariantIsKept := by
  intro s t hs h
  refine ⟨step_keeps (fun _ _ h => h) (fun _ _ _ => turn_keeps_controlInv) hs h, ?_⟩
  exact step_keeps (P := fun u => u.cfg = s.cfg) (fun _ _ h => h) (fun _ _ _ hu ht => (turn_keeps_cfg ht).trans hu)
    rfl h

end Sys2Proof.Machine
end

section
/-! SUPPORT. Uploads: the arithmetic of chunks and records (R201, R202, R206), what the upload invariant says of each
kind of step, and that every turn of an agent keeps it. -/

namespace Sys2Proof.Machine

/-! ### Chunks -/

/-- The block that is left to upload stays inside DMEM and inside IMG (R203, R255). -/
def blockInv (s : State) : Prop :=
  linearAddr s.fp.curbank.toNat s.fp.curoff.toNat + s.fp.remain.toNat ≤ bankCount * bankSize ∧
  s.fp.srcptr.toNat + s.fp.remain.toNat ≤ s.cfg.imgSize

theorem cfgLegal_chunk {c : Cfg} (h : cfgLegal c = true) : 1 ≤ c.chunk ∧ c.chunk ≤ 256 := by
  simp only [cfgLegal, Bool.and_eq_true, decide_eq_true_eq] at h
  tauto

theorem cfgLegal_img {c : Cfg} (h : cfgLegal c = true) :
    c.dmpImgBase.toNat + c.dmpImgLen.toNat ≤ c.imgSize ∧ c.imgSize ≤ 65536 := by
  simp only [cfgLegal, Bool.and_eq_true, decide_eq_true_eq] at h
  tauto

theorem chunkLen_bounds {chunk remain off : Nat} (hc : 1 ≤ chunk) (hr : 1 ≤ remain) (ho : off < bankSize) :
    1 ≤ chunkLen chunk remain off ∧ chunkLen chunk remain off ≤ chunk ∧ chunkLen chunk remain off ≤ remain ∧
      off + chunkLen chunk remain off ≤ bankSize := by
  unfold chunkLen
  omega

theorem toNat_pos_of_ne_zero {w : Nat} {x : BitVec w} (h : x ≠ 0) : 1 ≤ x.toNat := 
  Nat.pos_of_ne_zero fun h₀ => h (BitVec.eq_of_toNat_eq (by simpa using h₀))

/-- The head of the chunk loop goes on with a chunk that stays inside its bank and inside the block (R201, R202). -/
theorem blockHead_chunkInv {here : Site → XferAt → Phase} {s t : State} (hc : cfgLegal s.cfg = true)
    (h : blockInv s) (ht : blockHead here s = .run t) : chunkInv t := by
  unfold blockHead at ht
  split at ht
  · cases ht
  · rename_i hr
    cases ht
    obtain ⟨hpos, hchunk, hremain, hbank⟩ := chunkLen_bounds (off := s.fp.curoff.toNat) (cfgLegal_chunk hc).1
      (toNat_pos_of_ne_zero hr) s.fp.curoff.isLt
    obtain ⟨hdmem, himg⟩ := h
    have hlen : (BitVec.ofNat 9 (chunkLen s.cfg.chunk s.fp.remain.toNat s.fp.curoff.toNat)).toNat =
        chunkLen s.cfg.chunk s.fp.remain.toNat s.fp.curoff.toNat := by
      rw [BitVec.toNat_ofNat]
      unfold bankSize at hbank
      omega
    simp only [chunkInv, State.beginSelectBank, State.beginDevWriteByte, State.beginWrite_fp, State.beginWrite_cfg,
      hlen]
    exact ⟨hpos, hremain, hchunk, hbank, hdmem, himg⟩

/-- Past a chunk the rest of the block stays inside DMEM and IMG: the bank steps exactly where the offset wraps and
bytes remain (R202, R204). -/
theorem chunkDone_blockInv {s : State} (hc : cfgLegal s.cfg = true) (h : chunkInv s) :
    blockInv { s with fp := chunkDone s.fp } := by
  have hsize := (cfgLegal_img hc).2
  obtain ⟨hpos, hremain, -, hbank, hdmem, himg⟩ := h
  simp only [linearAddr, bankCount, bankSize, Nat.reduceMul] at hbank hdmem
  have hr : (s.fp.remain - s.fp.chunklen.setWidth 16).toNat = s.fp.remain.toNat - s.fp.chunklen.toNat := by bv_omega
  have hp : (s.fp.srcptr + s.fp.chunklen.setWidth 17).toNat = s.fp.srcptr.toNat + s.fp.chunklen.toNat := by bv_omega
  simp only [blockInv, chunkDone, hr, hp, linearAddr, bankCount, bankSize, Nat.reduceMul]
  refine ⟨?_, by omega⟩
  split
  · rename_i hwrap
    obtain ⟨hzero, hleft⟩ := hwrap
    have hbank' : (s.fp.curbank + 1).toNat = s.fp.curbank.toNat + 1 := by bv_omega
    have hfull : s.fp.curoff.toNat + s.fp.chunklen.toNat = 256 := by bv_omega
    have hoff : (s.fp.curoff + s.fp.chunklen.setWidth 8).toNat = 0 := by rw [hzero]; rfl
    rw [hbank', hoff, Nat.add_zero]
    omega
  · bv_omega

theorem chunkInv_congr {s t : State} (hf : t.fp = s.fp) (hc : t.cfg = s.cfg) (h : chunkInv s) : chunkInv t := by
  simpa only [chunkInv, hf, hc] using h

theorem blockNext_chunkInv {here : Site → XferAt → Phase} {s t : State} (hc : cfgLegal s.cfg = true) (h : chunkInv s)
    (ht : blockNext here s = .run t) : chunkInv t :=
  blockHead_chunkInv (s := { s with fp := chunkDone s.fp }) hc (chunkDone_blockInv hc h) ht

/-- A reply that goes on leaves a chunk that stays inside its bank and inside its block (R202). -/
theorem blockReply_chunkInv {here : Site → XferAt → Phase} {k : Site} {r : Reply} {s t : State}
    (hc : cfgLegal s.cfg = true) (h : chunkInv s) (ht : blockReply here k r s = .run t) : chunkInv t := by
  cases r with
  | fail c => cases ht
  | ok buf =>
    cases k <;> simp only [blockReply] at ht
    case upSelect | upAddr | upVSelect | upVAddr => cases ht; exact h
    case upData =>
      split at ht
      · cases ht; exact h
      · exact blockNext_chunkInv hc h ht
    case upVRead =>
      split at ht
      · exact blockNext_chunkInv (s := { s with fp := { s.fp with vbuf := storeVbuf buf s.fp.vbuf } }) hc h ht
      · cases ht
    all_goals cases ht

/-! ### Records -/

/-- How many bytes of its image a record takes (R123). -/
def recordLength : Instr → Nat
  | .recData _ _ data => 3 + data.length
  | .recSpcInten _ _ => 4
  | _ => 0

theorem decodeRecord_length {bytes rest : List Byte} {i : Instr} (h : decodeRecord bytes = .ok (i, rest)) :
    bytes.length = recordLength i + rest.length := by
  unfold decodeRecord at h
  repeat' split at h
  all_goals cases h
  · simp only [recordLength, List.length_cons]; omega
  · simp only [recordLength, List.length_cons, List.length_take, List.length_drop]; omega

/-- A record that is fetched ends inside its image (R206, R211). -/
theorem fetchRecord_inside {s : State} {i : Instr} {rest : List Byte} (h : cursorInv s)
    (hr : fetchRecord s = .ok (i, rest)) : s.fp.ipos.toNat + recordLength i ≤ s.fp.iend.toNat := by
  have hlen := decodeRecord_length hr
  rw [State.length_imgBytes] at hlen
  obtain ⟨hpos, -⟩ := h
  omega

theorem cursorInv_congr {s t : State} (hi : t.fp.ipos = s.fp.ipos) (he : t.fp.iend = s.fp.iend) (hc : t.cfg = s.cfg)
    (h : cursorInv s) : cursorInv t := by
  simpa only [cursorInv, hi, he, hc] using h

theorem recordDone_cursorInv {s : State} {size : Nat} (h : cursorInv s)
    (hs : s.fp.ipos.toNat + size ≤ s.fp.iend.toNat) : cursorInv (recordDone size s) := by
  obtain ⟨-, himg⟩ := h
  have hpos : (s.fp.ipos + BitVec.ofNat 17 size).toNat = s.fp.ipos.toNat + size := by
    have := s.fp.iend.isLt
    rw [BitVec.toNat_add, BitVec.toNat_ofNat]
    omega
  exact ⟨by rw [recordDone_fp, hpos]; exact hs, himg⟩

/-- The record cursor starts inside an image that lies inside IMG (R206, R207). -/
theorem imageEnter_cursorInv {s : State} {src len : BitVec 16} (verify : Bool)
    (h : src.toNat + len.toNat ≤ s.cfg.imgSize) : cursorInv (imageEnter src len verify s) := by
  have hend : (src.setWidth 17 + len.setWidth 17).toNat = src.toNat + len.toNat := by bv_omega
  have hpos : (src.setWidth 17).toNat = src.toNat := by bv_omega
  exact ⟨by rw [imageEnter_fp, hend, hpos]; omega, by rw [imageEnter_fp, hend]; exact h⟩

/-! ### The upload invariant by phase -/

theorem uploadInv_cmd {t : State} {k : Site} {x : XferAt} (hp : t.seq.phase = .cmd k x) :
    uploadInv t ↔ (k.ofUpload = true → chunkInv t) := by
  simp only [uploadInv, hp]

theorem uploadInv_record {t : State} {k : Site} {x : XferAt} (hp : t.seq.phase = .record k x) :
    uploadInv t ↔ cursorInv t ∧ (k.ofUpload = true → chunkInv t) := by
  simp only [uploadInv, hp]

theorem uploadInv_image {t : State} (hp : t.seq.phase = .image) : uploadInv t ↔ cursorInv t := by
  simp only [uploadInv, hp]

theorem uploadInv_imageDone {t : State} {r : Option Code} (hp : t.seq.phase = .imageDone r) :
    uploadInv t ↔ cursorInv t := by
  simp only [uploadInv, hp]

theorem uploadInv_idle {t : State} (hp : t.seq.phase = .idle) : uploadInv t := by
  simp only [uploadInv, hp]

theorem uploadInv_ending {t : State} {e : Ending} (hp : t.seq.phase = .ending e) : uploadInv t := by
  simp only [uploadInv, hp]

theorem uploadInv_congr {s t : State} (hp : t.seq.phase = s.seq.phase) (hf : t.fp = s.fp) (hc : t.cfg = s.cfg)
    (h : uploadInv s) : uploadInv t := by
  simpa only [uploadInv, chunkInv, cursorInv, hp, hf, hc] using h

/-- Whether a command is a block upload (R203). -/
def uploadsBlock : Instr → Bool
  | .upblk _ _ _ _ _ => true
  | _ => false

/-- UPBLK is the one command with the call sites of a block upload. -/
theorem uploadsBlock_of_ownsSite {i : Instr} {k : Site} (hi : i.isCommand = true) (hk : ownsSite i k = true)
    (hu : k.ofUpload = true) : uploadsBlock i = true := by
  cases i
  case upblk => rfl
  case recData | recSpcInten => cases hi
  all_goals cases k <;> first | exact Bool.noConfusion hk | exact Bool.noConfusion hu

/-- A command that uploads nothing is in no phase of which the upload invariant says anything. -/
theorem uploadInv_of_commandFollows {i : Instr} {t : State} (hu : uploadsBlock i = false)
    (hr : runsImage i = false) (hi : i.isCommand = true) (h : commandFollows i t.seq.phase) : uploadInv t := by
  rcases h with hp | hf
  · exact uploadInv_idle hp
  · cases hp : t.seq.phase <;> rw [hp] at hf
    case cmd k x =>
      simp only [phaseFits, Bool.and_eq_true] at hf
      obtain ⟨⟨-, hk⟩, -⟩ := hf
      exact (uploadInv_cmd hp).mpr fun hup => absurd (uploadsBlock_of_ownsSite hi hk hup) (by rw [hu]; nofun)
    case image | imageDone | record => simp [phaseFits, hi, hr] at hf
    all_goals simp only [uploadInv, hp]

/-! ### Every step of an instruction keeps it -/

/-- A block upload that UPBLK runs keeps its chunk inside its bank, or ends the command. -/
theorem ProcNext.elim_cmd_uploadInv {p : ProcNext} {code : Code} (hp : p.enters .cmd Site.ofUpload)
    (hrun : ∀ t, p = .run t → chunkInv t) : uploadInv (p.elim (endUpload code)) := by
  refine ProcNext.elim_of (fun t h => ?_) (fun r t _ => ?_)
  · have hchunk := hrun t h
    subst h
    obtain ⟨k, x, ht, -⟩ := hp
    exact (uploadInv_cmd ht).mpr fun _ => hchunk
  · cases r <;> exact uploadInv_ending rfl

/-- A block upload that a data record runs keeps its chunk inside its bank and the record cursor inside its image, or
ends the record. -/
theorem ProcNext.elim_record_uploadInv {s : State} {p : ProcNext} {size : Nat} (hu : OnlyUpload s p.state)
    (hp : p.enters .record Site.ofUpload) (hrun : ∀ t, p = .run t → chunkInv t) (hcur : cursorInv s)
    (hroom : s.fp.ipos.toNat + size ≤ s.fp.iend.toNat) : uploadInv (p.elim (recordEnd size)) := by
  have hcur' : cursorInv p.state := cursorInv_congr hu.ipos hu.iend hu.bus.cfg hcur
  refine ProcNext.elim_of (fun t h => ?_) (fun r t h => ?_)
  · have hchunk := hrun t h
    subst h
    obtain ⟨k, x, ht, -⟩ := hp
    exact (uploadInv_record ht).mpr ⟨hcur', fun _ => hchunk⟩
  · subst h
    cases r with
    | none =>
      refine (uploadInv_image rfl).mpr (recordDone_cursorInv hcur' ?_)
      rwa [← hu.ipos, ← hu.iend] at hroom
    | some c => exact (uploadInv_imageDone rfl).mpr hcur'

theorem acceptStep_upblk_uploadInv {s : State} (hc : cfgLegal s.cfg = true) (v : BitVec 1) (bank : BitVec 5)
    (offs : Byte) (size src : BitVec 16) : uploadInv (acceptStep (.upblk v bank offs size src) s) := by
  simp only [acceptStep]
  split
  · exact uploadInv_idle rfl
  · rename_i himg
    split
    · exact uploadInv_idle rfl
    · rename_i hdmem
      simp only [insideImg, insideDmem, Bool.not_eq_true', decide_eq_false_iff_not, not_not] at himg hdmem
      unfold State.ifInitd
      split
      · refine ProcNext.elim_cmd_uploadInv (blockHead_enters .cmd _) fun t ht => blockHead_chunkInv (by exact hc) ?_ ht
        have hsrc : (src.setWidth 17).toNat = src.toNat := by bv_omega
        exact ⟨hdmem, by simpa only [hsrc] using himg⟩
      · exact uploadInv_idle rfl

theorem acceptStep_upimg_uploadInv (s : State) (v : BitVec 1) (len src : BitVec 16) :
    uploadInv (acceptStep (.upimg v len src) s) := by
  simp only [acceptStep]
  split
  · exact uploadInv_idle rfl
  · rename_i himg
    simp only [insideImg, Bool.not_eq_true', decide_eq_false_iff_not, not_not] at himg
    unfold State.ifInitd
    split
    · exact (uploadInv_image rfl).mpr (imageEnter_cursorInv _ himg)
    · exact uploadInv_idle rfl

theorem acceptStep_uploadInv {i : Instr} {s : State} (hc : cfgLegal s.cfg = true) (hi : i.isCommand = true) :
    uploadInv (acceptStep i s) := by
  have hf := acceptStep_follows hi s
  cases i
  case upblk => exact acceptStep_upblk_uploadInv hc _ _ _ _ _
  case upimg => exact acceptStep_upimg_uploadInv s _ _ _
  case setup => exact (uploadInv_cmd (k := .identity) rfl).mpr nofun
  all_goals exact uploadInv_of_commandFollows rfl rfl hi hf

/-- SETUP's image lies inside IMG by the constraints on CFG (R232, R312). -/
theorem identityReply_uploadInv {s : State} (hc : cfgLegal s.cfg = true) (r : Reply) :
    uploadInv ((identityReply r s).elim setupIdentified) := by
  have hq := identityReply_quiet r s
  have hp := identityReply_enters r s
  refine ProcNext.elim_of (fun t h => ?_) (fun c t h => ?_) <;> rw [h] at hq hp
  · obtain ⟨k, x, ht, hk, -⟩ := hp
    rw [beq_iff_eq] at hk
    subst hk
    exact (uploadInv_cmd ht).mpr nofun
  · cases c with
    | some c => exact uploadInv_ending rfl
    | none =>
      obtain ⟨hcfg, -⟩ := hq.program.fixed
      refine (uploadInv_image rfl).mpr (imageEnter_cursorInv _ ?_)
      rw [State.setDevstat_cfg, show t.cfg = s.cfg from hcfg]
      exact (cfgLegal_img hc).1

theorem cmdReply_uploadInv {i : Instr} {s : State} {k : Site} (hc : cfgLegal s.cfg = true) (hi : i.isCommand = true)
    (hk : ownsSite i k = true) (h : k.ofUpload = true → chunkInv s) (c : Cfg) (r : Reply) :
    uploadInv (cmdReply c i k r s) := by
  have hf := cmdReply_follows hi c k r s
  cases i
  case upblk => exact ProcNext.elim_cmd_uploadInv (blockReply_enters .cmd k r s) fun t => blockReply_chunkInv hc (h hk)
  case setup => exact identityReply_uploadInv hc r
  case upimg => cases hk
  all_goals exact uploadInv_of_commandFollows rfl rfl hi hf

theorem recReply_uploadInv {i : Instr} {s : State} {k : Site} (hc : cfgLegal s.cfg = true) (hi : i.isCommand = false)
    (hk : ownsSite i k = true) (hcur : cursorInv s) (hroom : s.fp.ipos.toNat + recordLength i ≤ s.fp.iend.toNat)
    (h : k.ofUpload = true → chunkInv s) (r : Reply) : uploadInv (recReply i k r s) := by
  cases i
  case recData =>
    exact ProcNext.elim_record_uploadInv (blockReply_onlyUpload .record k r s) (blockReply_enters .record k r s)
      (fun t => blockReply_chunkInv hc (h hk)) hcur hroom
  case recSpcInten =>
    cases r with
    | ok buf => exact (uploadInv_image rfl).mpr (recordDone_cursorInv hcur hroom)
    | fail c => exact (uploadInv_imageDone rfl).mpr hcur
  all_goals cases hi

/-- The block of a data record stays inside DMEM by the record's checks, and inside IMG because the record does (R206,
R208). -/
theorem imageStep_recData_uploadInv {s : State} {bank offs : Byte} {data : List Byte} (hc : cfgLegal s.cfg = true)
    (hcur : cursorInv s) (hroom : s.fp.ipos.toNat + (3 + data.length) ≤ s.fp.iend.toNat) :
    uploadInv (imageStep (.recData bank offs data) s) := by
  simp only [imageStep]
  split
  · exact (uploadInv_imageDone rfl).mpr hcur
  · rename_i hlegal
    simp only [insideDmem, not_or, not_lt, Bool.not_eq_true', decide_eq_false_iff_not, not_not] at hlegal
    obtain ⟨hbank, hdmem⟩ := hlegal
    refine ProcNext.elim_record_uploadInv (blockEnter_onlyUpload .record _ _ _ _ _ s) (blockHead_enters .record _)
      (fun t => blockHead_chunkInv (by exact hc) ?_) hcur hroom
    have himg := (cfgLegal_img hc).2
    obtain ⟨-, hend⟩ := hcur
    have hsrc : (s.fp.ipos + 3).toNat = s.fp.ipos.toNat + 3 := by bv_omega
    have hsize : (BitVec.ofNat 16 data.length).toNat = data.length := by rw [BitVec.toNat_ofNat]; omega
    have hbank' : (bank.setWidth 5).toNat = bank.toNat := by bv_omega
    simp only [blockInv, hsrc, hsize, hbank']
    exact ⟨hdmem, by omega⟩

theorem imageStep_uploadInv {i : Instr} {s : State} (hc : cfgLegal s.cfg = true) (hcur : cursorInv s)
    (hi : runsImage i = true ∨ i.isCommand = false)
    (hroom : i.isCommand = false → s.fp.ipos.toNat + recordLength i ≤ s.fp.iend.toNat) :
    uploadInv (imageStep i s) := by
  cases i
  case recData => exact imageStep_recData_uploadInv hc hcur (hroom rfl)
  case recSpcInten => exact (uploadInv_record (k := .intEnable) rfl).mpr ⟨hcur, nofun⟩
  case upimg | setup => exact (uploadInv_imageDone rfl).mpr hcur
  all_goals exact absurd hi (by simp [runsImage, Instr.isCommand])

/-- A step of the fetched instruction keeps the upload invariant. -/
theorem exec_keeps_uploadInv {i : Instr} {s t : State} (hc : cfgLegal s.cfg = true) (hs : uploadInv s)
    (hf : fetch s = some i) (h : exec i s = .next t) : uploadInv t := by
  have hroom : cursorInv s → i.isCommand = false → s.fp.ipos.toNat + recordLength i ≤ s.fp.iend.toNat :=
    fun hcur hi => (fetchRecord_eq_of_isRecord hf hi).2.elim fun _ => fetchRecord_inside hcur
  rcases exec_cases h with ⟨-, hi, rfl⟩ | ⟨k, x, hp, hi, hk, rfl⟩ | ⟨hp, hi, rfl⟩ | ⟨k, x, hp, hi, hk, rfl⟩ |
    ⟨r, hp, hi, rfl⟩ | ⟨e, -, -, rfl⟩
  · exact acceptStep_uploadInv hc hi
  · have hchunk := (uploadInv_cmd hp).mp hs
    refine State.xfer_of hs (fun y u hy => ?_) (fun r u hu => ?_)
    · have hb := (xferStep_go hy).2.1
      exact (uploadInv_cmd rfl).mpr fun hk => chunkInv_congr hb.fp hb.cfg (hchunk hk)
    · have hb := (xferStep_done hu).1
      exact cmdReply_uploadInv (by rw [hb.cfg]; exact hc) hi hk (fun hk => chunkInv_congr hb.fp hb.cfg (hchunk hk)) _ r
  · have hcur := (uploadInv_image hp).mp hs
    exact imageStep_uploadInv hc hcur hi (hroom hcur)
  · obtain ⟨hcur, hchunk⟩ := (uploadInv_record hp).mp hs
    refine State.xfer_of hs (fun y u hy => ?_) (fun r u hu => ?_)
    · have hb := (xferStep_go hy).2.1
      exact (uploadInv_record rfl).mpr ⟨cursorInv_congr (congrArg _ hb.fp) (congrArg _ hb.fp) hb.cfg hcur,
        fun hk => chunkInv_congr hb.fp hb.cfg (hchunk hk)⟩
    · have hb := (xferStep_done hu).1
      exact recReply_uploadInv (by rw [hb.cfg]; exact hc) hi hk
        (cursorInv_congr (congrArg _ hb.fp) (congrArg _ hb.fp) hb.cfg hcur) (by rw [hb.fp]; exact hroom hcur hi)
        (fun hk => chunkInv_congr hb.fp hb.cfg (hchunk hk)) r
  · cases i
    case upimg | setup => cases r <;> exact uploadInv_ending rfl
    all_goals cases hi
  · cases e <;> exact uploadInv_idle rfl

/-- Every turn of an agent keeps the upload invariant. -/
theorem turn_keeps_uploadInv {u t : State} (hc : cfgLegal u.cfg = true) (h : uploadInv u) (ht : Turn u t) :
    uploadInv t := by
  cases ht with
  | stay => exact h
  | lift => rw [liftHold_eq]; exact uploadInv_congr rfl rfl rfl h
  | run i t hp hf he => exact exec_keeps_uploadInv hc h hf he
  | accept d => trivial
  | pbuf | img | stopped | foreign => exact uploadInv_congr rfl rfl rfl h
  | reject | reset => exact uploadInv_idle rfl

/-- Settles O56: each turn keeps the upload invariant. -/
theorem uploadInvariantIsKept : Obligations.UploadInvariantIsKept :=
  fun _ _ =>
    step_keeps (P := uploadInv) (fun _ _ => uploadInv_congr rfl rfl rfl) (fun _ _ hc => turn_keeps_uploadInv hc)

end Sys2Proof.Machine
end

section
/-! SUPPORT. The byte counter of a transaction: that every primitive keeps it exact, that every caller begins a
transaction with it loaded, and that every turn of an agent keeps the transfer invariant. -/

namespace Sys2Proof.Machine

/-! ### The counter and the bus primitives -/

@[simp] theorem noteAnswer_rm (a : Answer) (b : BusRegs) : (noteAnswer a b).rm = b.rm := by cases a <;> rfl

@[simp] theorem noteAnswer_cnt (a : Answer) (b : BusRegs) : (noteAnswer a b).cnt = b.cnt := by cases a <;> rfl

@[simp] theorem noteAnswer_bcnt (a : Answer) (b : BusRegs) : (noteAnswer a b).bcnt = b.bcnt := by cases a <;> rfl

/-- A Start leaves the counter, the mode and the buffers as they are (R144). -/
structure SameCount (s t : State) : Prop where
  rm : t.bt.rm = s.bt.rm
  cnt : t.bt.cnt = s.bt.cnt
  bcnt : t.bt.bcnt = s.bt.bcnt
  rbuf : t.seq.rbuf = s.seq.rbuf

theorem State.start_sameCount {s t : State} {dir : Dir} {a : Answer} (h : s.start dir = (a, t)) : SameCount s t := by
  obtain ⟨-, -, hseq, hbt, -⟩ := State.start_eq h
  exact ⟨by rw [hbt]; exact noteAnswer_rm _ _, by rw [hbt]; exact noteAnswer_cnt _ _,
    by rw [hbt]; exact noteAnswer_bcnt _ _, by rw [hseq]⟩

theorem State.tx_rm {s t : State} {b : Byte} {a : Answer} (h : s.tx b = (a, t)) : t.bt.rm = s.bt.rm := by
  obtain ⟨-, -, -, hbt, -⟩ := State.tx_eq h
  rw [hbt, noteAnswer_rm, countTx_eq]

/-- A byte transmitted in non-repeat mode counts BCNT down by one (R145). -/
theorem State.tx_count {s t : State} {b : Byte} {a : Answer} (hrm : s.bt.rm = false) (h : s.tx b = (a, t)) :
    t.bt.cnt = s.bt.cnt ∧ t.bt.bcnt = s.bt.bcnt - 1 ∧ t.seq.rbuf = s.seq.rbuf := by
  obtain ⟨-, -, hseq, hbt, -⟩ := State.tx_eq h
  rw [hbt, hseq]
  simp [countTx_eq, hrm]

theorem State.pollReady_sameCount {s t : State} {v : Bool} (h : s.pollReady = (v, t)) : SameCount s t := by
  obtain ⟨-, -, hseq, hbt, -⟩ := State.pollReady_eq h
  exact ⟨by rw [hbt], by rw [hbt], by rw [hbt], by rw [hseq]⟩

/-! ### One step of a procedure -/

/-- A write that goes on stays in repeat mode (R152). -/
theorem writeStep_counterInv {s t : State} {a : WriteAt} {y : XferAt} (hs : counterInv s (.w a))
    (h : writeStep s a = .go y t) : counterInv t y := by
  have hrm : s.bt.rm = true := hs
  cases a <;> simp only [writeStep] at h
  case start =>
    split at h
    · cases h
    · split at h <;> cases h <;> exact (State.start_sameCount ‹_›).rm.trans hrm
  case reg => split at h <;> cases h <;> exact (State.tx_rm ‹_›).trans hrm
  case data =>
    split at h
    · cases h
    · split at h <;> cases h <;> rename_i htx <;> exact (State.tx_rm htx).trans hrm
  case nackStop => split at h <;> cases h; rfl
  case payloadStop => cases h

/-- A byte received counts BCNT down, and the read ends exactly where BCNT is 0 (R146, R153). -/
theorem readStep_rx_counterInv {s t : State} {y : XferAt} (hs : counterInv s (.r .rx))
    (h : readStep s .rx = .go y t) : counterInv t y := by
  obtain ⟨hrm, hpos, hlen⟩ := hs
  have hdown : (s.bt.bcnt - 1).toNat = s.bt.bcnt.toNat - 1 := by bv_omega
  simp only [readStep] at h
  split at h
  · rename_i hz
    have hz : s.bt.bcnt - 1 = 0 := hz
    cases h
    have hone : s.bt.bcnt.toNat = 1 := by rw [hz] at hdown; simp at hdown; omega
    refine ⟨hrm, hz, ?_⟩
    simp only [State.rx_seq, List.length_append, List.length_singleton, State.rx_bt, countDown]
    omega
  · rename_i hz
    have hz : s.bt.bcnt - 1 ≠ 0 := hz
    cases h
    have hmore : 1 ≤ (s.bt.bcnt - 1).toNat := toNat_pos_of_ne_zero hz
    refine ⟨hrm, hmore, ?_⟩
    simp only [State.rx_seq, List.length_append, List.length_singleton, State.rx_bt, countDown]
    omega

/-- A read that goes on counts its register byte and then its CNT bytes (R153). -/
theorem readStep_counterInv {s t : State} {a : ReadAt} {y : XferAt} (hs : counterInv s (.r a))
    (h : readStep s a = .go y t) : counterInv t y := by
  cases a
  case start1 =>
    obtain ⟨hrm, hcnt, hb, hbuf⟩ := hs
    simp only [readStep] at h
    split at h
    · cases h
    · split at h <;> cases h <;> rename_i hst <;> obtain ⟨rm, cnt, bcnt, rbuf⟩ := State.start_sameCount hst
      · exact ⟨rm.trans hrm, by rw [cnt]; exact hcnt, bcnt.trans hb, rbuf.trans hbuf⟩
      · exact rm.trans hrm
  case reg =>
    obtain ⟨hrm, hcnt, hb, hbuf⟩ := hs
    simp only [readStep] at h
    split at h <;> cases h <;> rename_i htx <;> obtain ⟨cnt, bcnt, rbuf⟩ := State.tx_count hrm htx
    · exact ⟨(State.tx_rm htx).trans hrm, by rw [cnt]; exact hcnt, by rw [bcnt, hb]; rfl, rbuf.trans hbuf⟩
    · exact (State.tx_rm htx).trans hrm
  case poll =>
    obtain ⟨hrm, hcnt, hb, hbuf⟩ := hs
    simp only [readStep] at h
    split at h <;> cases h <;> rename_i hpoll <;> obtain ⟨rm, cnt, bcnt, rbuf⟩ := State.pollReady_sameCount hpoll
    · exact ⟨rm.trans hrm, by rw [cnt]; exact hcnt, bcnt.trans hb, rbuf.trans hbuf⟩
    · exact rm.trans hrm
  case stop1 =>
    obtain ⟨-, hcnt, -, hbuf⟩ := hs
    cases h
    exact ⟨rfl, hcnt, rfl, hbuf⟩
  case start2 =>
    obtain ⟨hrm, hcnt, hb, hbuf⟩ := hs
    simp only [readStep] at h
    split at h
    · cases h
    · split at h <;> cases h <;> rename_i hst <;> obtain ⟨rm, cnt, bcnt, rbuf⟩ := State.start_sameCount hst
      · exact ⟨rm.trans hrm, by rw [bcnt, hb]; exact hcnt, by rw [rbuf, hbuf, bcnt, hb, cnt]; exact Nat.zero_add _⟩
      · exact rm.trans hrm
  case rx => exact readStep_rx_counterInv hs h
  case timeout | stop2 | nackStop => cases h

theorem xferStep_counterInv {s t : State} {x y : XferAt} (hs : counterInv s x) (h : xferStep s x = .go y t) :
    counterInv t y := by
  cases x with
  | w a => exact writeStep_counterInv hs h
  | r a => exact readStep_counterInv hs h

/-! ### The transfer invariant by phase -/

theorem transferInv_site {t : State} {here : Site → XferAt → Phase} {k : Site} {x : XferAt}
    (hh : here = .cmd ∨ here = .record) (hp : t.seq.phase = here k x) :
    transferInv t ↔ siteMatches k x = true ∧ counterInv t x := by
  rcases hh with rfl | rfl <;> simp only [transferInv, hp]

/-- Outside a transaction the transfer invariant says nothing. -/
theorem transferInv_of_noSite {t : State} (hc : ∀ k x, t.seq.phase ≠ .cmd k x) (hr : ∀ k x, t.seq.phase ≠ .record k x) :
    transferInv t := by
  unfold transferInv
  split
  · exact absurd ‹_› (hc _ _)
  · exact absurd ‹_› (hr _ _)
  · trivial

theorem transferInv_goto {s : State} {p : Phase} (hc : ∀ k x, p ≠ .cmd k x) (hr : ∀ k x, p ≠ .record k x) :
    transferInv (s.goto p) :=
  transferInv_of_noSite hc hr

theorem transferInv_congr {s t : State} (hp : t.seq = s.seq) (hrm : t.bt.rm = s.bt.rm) (hcnt : t.bt.cnt = s.bt.cnt)
    (hb : t.bt.bcnt = s.bt.bcnt) (h : transferInv s) : transferInv t := by
  unfold transferInv at *
  rw [hp]
  split <;> simp_all [counterInv]

/-! ### Every caller begins a transaction with its counter loaded -/

section
variable {here : Site → XferAt → Phase} (hh : here = .cmd ∨ here = .record) {k : Site} (s : State)
include hh

theorem transferInv_beginWrite (hk : siteReads k = false) (sa : BitVec 7) (reg : Byte) (data : List Byte) :
    transferInv (s.beginWrite sa reg data (here k)) :=
  (transferInv_site (x := .w .start) hh rfl).mpr ⟨by simp [siteMatches, hk], rfl⟩

theorem transferInv_beginRead (hk : siteReads k = true) (sa : BitVec 7) (reg : Byte) {n : BitVec 16}
    (hn : 1 ≤ n.toNat) : transferInv (s.beginRead sa reg n (here k)) :=
  (transferInv_site (x := .r .start1) hh rfl).mpr ⟨hk, rfl, hn, rfl, rfl⟩

variable {s} {t : State}

theorem blockHead_transferInv (ht : blockHead here s = .run t) : transferInv t := by
  unfold blockHead at ht
  split at ht <;> cases ht
  exact transferInv_beginWrite hh _ rfl _ _ _

/-- An upload that goes on has begun a write, or a read-back of a whole chunk, which is not empty (R202). -/
theorem blockReply_transferInv {r : Reply} (hchunk : 1 ≤ s.fp.chunklen.toNat)
    (ht : blockReply here k r s = .run t) : transferInv t := by
  cases r with
  | fail c => cases ht
  | ok buf =>
    cases k <;> simp only [blockReply] at ht
    case upSelect | upAddr | upVSelect => cases ht; exact transferInv_beginWrite hh _ rfl _ _ _
    case upVAddr =>
      cases ht
      refine transferInv_beginRead hh _ rfl _ _ ?_
      rwa [BitVec.toNat_setWidth_of_le (by decide)]
    case upData =>
      split at ht
      · cases ht; exact transferInv_beginWrite hh _ rfl _ _ _
      · exact blockHead_transferInv hh ht
    case upVRead =>
      split at ht
      · exact blockHead_transferInv hh ht
      · cases ht
    all_goals cases ht

end

theorem identityReply_transferInv {r : Reply} {s t : State} (ht : identityReply r s = .run t) : transferInv t := by
  simp only [identityReply] at ht
  (repeat' split at ht) <;> cases ht
  exact transferInv_beginRead (.inl rfl) _ rfl _ _ (Nat.le_refl 1)

theorem fifoWait_transferInv (s : State) : transferInv (fifoWait s) :=
  transferInv_beginRead (.inl rfl) _ rfl _ _ (by decide)

theorem sampleReply_transferInv {k : Site} {r : Reply} {s t : State} (ht : sampleReply k r s = .run t) :
    transferInv t := by
  cases r with
  | fail c => cases ht
  | ok buf =>
    cases k <;> simp only [sampleReply] at ht
    case fifoCount =>
      split at ht <;> cases ht
      · exact fifoWait_transferInv _
      · exact transferInv_beginRead (.inl rfl) _ rfl _ _ (by decide)
    case intStatus => split at ht <;> cases ht <;> exact transferInv_beginRead (.inl rfl) _ rfl _ _ (by decide)
    case ovfRead => cases ht; exact transferInv_beginWrite (.inl rfl) _ rfl _ _ _
    case ovfWrite => cases ht; exact fifoWait_transferInv s
    case packet => cases ht; exact transferInv_beginRead (.inl rfl) _ rfl _ _ (by decide)
    all_goals cases ht

theorem endWith_transferInv (r : Reply) (s : State) : transferInv (endWith r s) := by
  cases r <;> exact transferInv_goto nofun nofun

theorem endUpload_transferInv (code : Code) (r : Option Code) (s : State) : transferInv (endUpload code r s) := by
  cases r <;> exact transferInv_goto nofun nofun

theorem recordEnd_transferInv (size : Nat) (r : Option Code) (s : State) : transferInv (recordEnd size r s) := by
  cases r <;> exact transferInv_goto nofun nofun

theorem setupIdentified_transferInv (r : Option Code) (s : State) : transferInv (setupIdentified r s) := by
  cases r <;> exact transferInv_of_noSite nofun nofun

theorem singleSampleEnd_transferInv (r : Option Code) (s : State) : transferInv (singleSampleEnd r s) := by
  cases r <;> exact transferInv_goto nofun nofun

theorem averageSampleEnd_transferInv (r : Option Code) (s : State) : transferInv (averageSampleEnd r s) := by
  cases r with
  | some c => exact transferInv_goto nofun nofun
  | none =>
    simp only [averageSampleEnd]
    split
    · exact fifoWait_transferInv _
    · exact transferInv_goto nofun nofun

theorem rmwReadReply_transferInv (sa : BitVec 7) (reg : Byte) (start width : Nat) (value : Byte) (r : Reply)
    (s : State) : transferInv (rmwReadReply sa reg start width value r s) := by
  cases r with
  | ok buf => exact transferInv_beginWrite (.inl rfl) _ rfl _ _ _
  | fail c => exact transferInv_goto nofun nofun

theorem cmdReply_transferInv {i : Instr} {k : Site} {s : State} (hk : ownsSite i k = true)
    (h : k.ofUpload = true → chunkInv s) (c : Cfg) (r : Reply) : transferInv (cmdReply c i k r s) := by
  cases i
  case rdb | rdbit => cases r <;> exact transferInv_goto nofun nofun
  case wrbit | wrbf | dwbf =>
    simp only [cmdReply]
    split
    · exact rmwReadReply_transferInv _ _ _ _ _ r s
    · exact endWith_transferInv r s
  case upblk =>
    exact ProcNext.elim_of (fun _ => blockReply_transferInv (.inl rfl) (h hk).1)
      fun r t _ => endUpload_transferInv _ r t
  case setup =>
    exact ProcNext.elim_of (fun _ => identityReply_transferInv) fun r t _ => setupIdentified_transferInv r t
  case rdsmp => exact ProcNext.elim_of (fun _ => sampleReply_transferInv) fun r t _ => singleSampleEnd_transferInv r t
  case rdavg => exact ProcNext.elim_of (fun _ => sampleReply_transferInv) fun r t _ => averageSampleEnd_transferInv r t
  all_goals exact endWith_transferInv r s

theorem recReply_transferInv {i : Instr} {k : Site} {s : State} (hi : i.isCommand = false) (hk : ownsSite i k = true)
    (h : k.ofUpload = true → chunkInv s) (r : Reply) : transferInv (recReply i k r s) := by
  cases i
  case recData =>
    exact ProcNext.elim_of (fun _ => blockReply_transferInv (.inr rfl) (h hk).1)
      fun r t _ => recordEnd_transferInv _ r t
  case recSpcInten => cases r <;> exact transferInv_goto nofun nofun
  all_goals cases hi

theorem imageStep_transferInv {i : Instr} (hi : runsImage i = true ∨ i.isCommand = false) (s : State) :
    transferInv (imageStep i s) := by
  cases i
  case recData =>
    simp only [imageStep]
    split
    · exact transferInv_goto nofun nofun
    · exact ProcNext.elim_of (fun _ => blockHead_transferInv (.inr rfl)) fun r t _ => recordEnd_transferInv _ r t
  case recSpcInten => exact transferInv_beginWrite (.inr rfl) _ rfl _ _ _
  case upimg | setup => exact transferInv_goto nofun nofun
  all_goals exact absurd hi (by simp [runsImage, Instr.isCommand])

theorem transferInv_idle {t : State} (hp : t.seq.phase = .idle) : transferInv t := by
  simp only [transferInv, hp]

theorem State.ifInitd_transferInv {s : State} {go : State → State} (h : transferInv (go s)) :
    transferInv (s.ifInitd go) := by
  unfold State.ifInitd
  split
  · exact h
  · exact transferInv_idle rfl

theorem acceptStep_transferInv {i : Instr} (hi : i.isCommand = true) (s : State) : transferInv (acceptStep i s) := by
  cases i <;> simp only [acceptStep]
  case init => exact transferInv_goto nofun nofun
  case setup => exact transferInv_beginRead (.inl rfl) _ rfl _ _ (Nat.le_refl 1)
  case rdbit => exact s.ifInitd_transferInv (transferInv_beginRead (.inl rfl) _ rfl _ _ (Nat.le_refl 1))
  case dwb | selbank | setaddr => exact s.ifInitd_transferInv (transferInv_beginWrite (.inl rfl) _ rfl _ _ _)
  case recData | recSpcInten => cases hi
  case wrb =>
    split
    · exact transferInv_idle rfl
    · exact s.ifInitd_transferInv (transferInv_beginWrite (.inl rfl) _ rfl _ _ _)
  case rdb =>
    split
    · exact transferInv_idle rfl
    · rename_i hlegal
      rw [not_or] at hlegal
      exact s.ifInitd_transferInv
        (transferInv_beginRead (.inl rfl) _ rfl _ _ (toNat_pos_of_ne_zero hlegal.1))
  case wrbit | wrbf | dwbf =>
    split
    · exact transferInv_idle rfl
    · exact s.ifInitd_transferInv (transferInv_beginRead (.inl rfl) _ rfl _ _ (Nat.le_refl 1))
  case upblk =>
    split
    · exact transferInv_idle rfl
    · split
      · exact transferInv_idle rfl
      · exact s.ifInitd_transferInv
          (ProcNext.elim_of (fun _ => blockHead_transferInv (.inl rfl)) fun r t _ => endUpload_transferInv _ r t)
  case upimg =>
    split
    · exact transferInv_idle rfl
    · exact s.ifInitd_transferInv (transferInv_of_noSite nofun nofun)
  case rdsmp =>
    split
    · exact transferInv_idle rfl
    · exact fifoWait_transferInv s
  case rdavg =>
    split
    · exact transferInv_idle rfl
    · split
      · exact transferInv_idle rfl
      · exact fifoWait_transferInv _

/-! ### Every turn keeps the invariant -/

theorem State.xfer_transferInv {s : State} {here : Site → XferAt → Phase} {k : Site} {x : XferAt}
    {reply : Reply → State → State} (hh : here = .cmd ∨ here = .record) (hp : s.seq.phase = here k x)
    (h : transferInv s) (hr : ∀ r u, OnlyBus s u → transferInv (reply r u)) :
    transferInv (s.xfer x (here k) reply) := by
  obtain ⟨hm, hcount⟩ := (transferInv_site hh hp).mp h
  refine State.xfer_of h (fun y u hy => (transferInv_site hh rfl).mpr ⟨?_, ?_⟩)
    fun r u hu => hr r u (xferStep_done hu).1
  · rw [siteMatches_iff, (xferStep_go hy).1, (siteMatches_iff k x).mp hm]
  · have := xferStep_counterInv hcount hy
    cases y with
    | w b => exact this
    | r b => cases b <;> exact this

/-- A step of an instruction keeps the transfer invariant, where the chunk of a running upload is not empty. -/
theorem exec_keeps_transferInv {i : Instr} {s t : State} (hu : uploadInv s) (h : transferInv s)
    (he : exec i s = .next t) : transferInv t := by
  rcases exec_cases he with ⟨-, hi, rfl⟩ | ⟨k, x, hp, hi, hk, rfl⟩ | ⟨hp, hi, rfl⟩ | ⟨k, x, hp, hi, hk, rfl⟩ |
    ⟨r, hp, hi, rfl⟩ | ⟨e, -, -, rfl⟩
  · exact acceptStep_transferInv hi s
  · have hchunk := (uploadInv_cmd hp).mp hu
    exact State.xfer_transferInv (.inl rfl) hp h fun r u hb =>
      cmdReply_transferInv hk (fun hk => chunkInv_congr hb.fp hb.cfg (hchunk hk)) s.cfg r
  · exact imageStep_transferInv hi s
  · obtain ⟨-, hchunk⟩ := (uploadInv_record hp).mp hu
    exact State.xfer_transferInv (.inr rfl) hp h fun r u hb =>
      recReply_transferInv hi hk (fun hk => chunkInv_congr hb.fp hb.cfg (hchunk hk)) r
  · cases i
    case upimg | setup => cases r <;> exact transferInv_goto nofun nofun
    all_goals cases hi
  · cases e <;> exact transferInv_idle rfl

/-- Every turn of an agent keeps the transfer invariant. -/
theorem turn_keeps_transferInv {u t : State} (hu : uploadInv u) (h : transferInv u) (ht : Turn u t) :
    transferInv t := by
  cases ht with
  | stay => exact h
  | lift => rw [liftHold_eq]; exact transferInv_congr rfl rfl rfl rfl h
  | run i t hp hf he => exact exec_keeps_transferInv hu h he
  | accept d => trivial
  | pbuf | img | stopped | foreign => exact transferInv_congr rfl rfl rfl rfl h
  | reject | reset => exact transferInv_idle rfl

/-- Settles O57: each turn keeps the transfer invariant, together with the upload invariant. -/
theorem transferInvariantIsKept : Obligations.TransferInvariantIsKept := by
  intro s t hu h ht
  obtain ⟨-, hkept⟩ := step_keeps (P := fun u => uploadInv u ∧ transferInv u)
    (fun _ _ h => ⟨uploadInv_congr rfl rfl rfl h.1, transferInv_congr rfl rfl rfl rfl h.2⟩)
    (fun _ _ hc h ht => ⟨turn_keeps_uploadInv hc h.1 ht, turn_keeps_transferInv h.1 h.2 ht⟩) ⟨hu, h⟩ ht
  exact hkept

end Sys2Proof.Machine
end

section
/-! SUPPORT. The host port and reset: what a move of HOST or ENV at the head of the agenda comes to, the values after
reset, and the words the host reads. -/

namespace Sys2Proof.Machine

/-! ### Reset -/

theorem statusWord_zero {s : State} (hb : s.busy = false) (hbt : s.bt = BusRegs.zero)
    (hd : s.ae.devstat = .disconnected) : statusWord s = 0 := by
  rw [statusWord, hb, hbt, hd]
  decide

theorem resultWord_zero {s : State} (hb : s.busy = false) (hr : s.result = Result.zero) : resultWord s = 0 := by
  rw [resultWord, hb, hr]
  decide

theorem curposWord_zero (chunk : Nat) : curposWord (ProgRegs.zero chunk) = 0 := by
  simp only [curposWord, ProgRegs.zero]
  decide

theorem afterReset_holdsResetValues (c : Cfg) (n : Nat) : holdsResetValues (State.afterReset c n) :=
  ⟨rfl, rfl, rfl, statusWord_zero rfl rfl rfl, resultWord_zero rfl rfl, rfl, rfl, ⟨rfl, rfl, rfl, rfl, rfl, rfl⟩,
    ⟨rfl, rfl, rfl, rfl, rfl, rfl, rfl, rfl⟩, ⟨rfl, rfl, rfl, rfl, rfl⟩, rfl, rfl, fun _ => ⟨rfl, rfl⟩⟩

/-- After reset the bus is free and no command runs, so a step changes nothing (R310). -/
theorem step_afterReset {c : Cfg} (hc : cfgLegal c = true) (n : Nat) :
    step (State.afterReset c n) = .next (State.afterReset c n) := by
  rw [step_of_defaultDue (s := State.afterReset c n) hc (.inl rfl), blockTurn_idle rfl, State.lingers_of_idle rfl,
    if_neg]
  exact fun h => Bool.noConfusion h.1

/-- Settles O14: the state after reset has the values of R37, and an idle block on a free bus stands still. -/
theorem resetStateIsIdle : Obligations.ResetStateIsIdle :=
  fun c n => ⟨afterReset_holdsResetValues c n, congrArg some (congrArg HostValue.word32 (statusWord_zero rfl rfl rfl)),
    congrArg some (congrArg HostValue.word32 (resultWord_zero rfl rfl)),
    congrArg some (congrArg HostValue.word32 (curposWord_zero c.chunk)), rfl, rfl, rfl, rfl, rfl,
    fun hc => step_afterReset hc n⟩

/-- Settles O60: an idle block with BUSY = 0 is in no transaction, no upload and no image, and the controller is in
reset. -/
theorem resetHasEveryInvariant : Obligations.ResetHasEveryInvariant :=
  fun _ _ => ⟨controlInv_of_idle rfl rfl rfl rfl (absurd rfl), uploadInv_idle rfl, transferInv_idle rfl, ⟨rfl, rfl⟩,
    phaseInv_of_idle rfl⟩

/-! ### A move at the head of the agenda -/

/-- A move of HOST or ENV at the head of the agenda is the step (log entry 2). -/
theorem step_outsideMove {s : State} {m : Move} {rest : List Move} (ht : agendaTurn s) (hm : s.moves = m :: rest)
    (hw : m ≠ .wait) (hb : m ≠ .block) : step s = outsideMove m { s with moves := rest } := by
  obtain ⟨hc, hd⟩ := ht
  simp only [step, hc, hd, hm, Bool.not_true, Bool.false_eq_true, if_false]

/-- Settles O13: RESET_BLOCK gives the state after the next reset, with CFG, ENV and the agenda as they are. -/
theorem resetBlockRestoresResetValues : Obligations.ResetBlockRestoresResetValues := by
  intro s rest ht hm
  exact ⟨_, step_outsideMove ht hm nofun nofun, rfl, rfl, rfl, afterReset_holdsResetValues s.cfg (s.epoch + 1)⟩

theorem hostWrite_cmd {s : State} (hb : s.busy = false) (d : Descriptor) :
    hostWrite 0 d s = .next (acceptCommand d s) := by
  simp [hostWrite, hb]

/-- Settles O8: a CMD write that is accepted is `acceptCommand`, and CMD reads the latch. -/
theorem commandWriteLatchesAndStarts : Obligations.CommandWriteLatchesAndStarts := by
  refine ⟨fun s d rest ht hm hb => ?_, fun _ => rfl, fun _ _ => rfl⟩
  rw [step_outsideMove ht hm nofun nofun]
  exact hostWrite_cmd (s := { s with moves := rest }) hb d

/-- The host moves that BUSY = 1 forbids (U12). -/
theorem outsideMove_busy {s : State} {m : Move} (hb : s.busy = true)
    (hm : (∃ d, m = .writeHR 0 d) ∨ (∃ i v, m = .writePBUF i v) ∨ (∃ a v, m = .writeIMG a v) ∨ ∃ i, m = .readPBUF i) :
    outsideMove m s = .refused .hostMoveWhileBusy := by
  rcases hm with ⟨d, rfl⟩ | ⟨i, v, rfl⟩ | ⟨a, v, rfl⟩ | ⟨i, rfl⟩
  · simp [outsideMove, hostWrite, hb]
  · simp [outsideMove, hostWritePbuf, hb]
  · simp [outsideMove, hostWriteImg, hb]
  · simp [outsideMove, hb]

theorem hostWrite_readOnly {n : Nat} (hl : 1 ≤ n) (hu : n ≤ 19) (d : BitVec 64) (s : State) :
    hostWrite n d s = .next s := by
  rw [hostWrite, if_neg (by omega), if_pos hu]

theorem hostWrite_above {n : Nat} (hn : 19 < n) (d : BitVec 64) (s : State) :
    hostWrite n d s = .refused .noSuchHostRegister := by
  rw [hostWrite, if_neg (by omega), if_neg (by omega)]

/-- There are the host registers HR0 to HR19 and no others (R21). -/
theorem hostRead_isSome_iff (s : State) (n : Nat) : (hostRead s n).isSome = true ↔ n ≤ 19 := by
  constructor
  · intro h
    by_contra hn
    have habove : hostRead s n = none := by
      unfold hostRead
      split <;> first | omega | rfl
    rw [habove] at h
    cases h
  · intro h
    interval_cases n <;> rfl

theorem outsideMove_readHR {s : State} {n : Nat} (hn : n ≤ 19) : outsideMove (.readHR n) s = .next s := by
  rw [outsideMove, if_pos ((hostRead_isSome_iff s n).mpr hn)]

theorem outsideMove_readHR_above {s : State} {n : Nat} (hn : 19 < n) :
    outsideMove (.readHR n) s = .refused .noSuchHostRegister := by
  rw [outsideMove, if_neg (by rw [hostRead_isSome_iff]; omega)]

theorem outsideMove_readPBUF {s : State} {i : Nat} (hb : s.busy = false) (hi : i < s.cfg.pbufSize) :
    outsideMove (.readPBUF i) s = .next s := by
  simp [outsideMove, hostReadPbuf, hb, hi]

/-- Settles O9: a host access is refused while BUSY, refused above register 19, and else without effect where it does
not write. -/
theorem hostWritesAreRefusedOrIgnored : Obligations.HostWritesAreRefusedOrIgnored := by
  intro s rest ht
  refine ⟨fun m hm hb hcase => ?_, fun n d hm hl hu => ?_, fun n hm hn => ⟨(hostRead_isSome_iff s n).mpr hn, ?_⟩,
    fun n hn hm => ?_, fun i hm hb hi => ⟨if_pos hi, ?_⟩⟩
  · rw [step_outsideMove ht hm (by rintro rfl; simp at hcase) (by rintro rfl; simp at hcase)]
    exact outsideMove_busy (s := { s with moves := rest }) hb hcase
  · rw [step_outsideMove ht hm nofun nofun]
    exact hostWrite_readOnly hl hu d _
  · rw [step_outsideMove ht hm nofun nofun]
    exact outsideMove_readHR hn
  · rcases hm with ⟨d, hm⟩ | hm <;> rw [step_outsideMove ht hm nofun nofun]
    · exact hostWrite_above hn d _
    · exact outsideMove_readHR_above hn
  · rw [step_outsideMove ht hm nofun nofun]
    exact outsideMove_readPBUF (s := { s with moves := rest }) hb hi

/-! ### The words the host reads -/

theorem getLsbD_bitAt (v : Bool) {pos : Nat} (hp : pos < 32) (n : Nat) :
    (bitAt v pos).getLsbD n = (v && decide (n = pos)) := by
  simp only [bitAt, BitVec.getLsbD_shiftLeft, BitVec.getLsbD_setWidth, BitVec.getLsbD_ofBool]
  by_cases h : n = pos
  · subst h; simp [hp]
  · simp only [h, decide_false, Bool.and_false]
    cases v <;> simp
    omega

theorem getLsbD_setWidth_word {w : Nat} (hw : w ≤ 32) (a : BitVec w) (n : Nat) :
    (a.setWidth 32).getLsbD n = a.getLsbD n := by
  rw [BitVec.getLsbD_setWidth]
  by_cases hn : n < 32
  · simp [hn]
  · rw [BitVec.getLsbD_of_ge a n (by omega), Bool.and_false]

theorem getLsbD_devstat (d : DevStat) (n : Nat) :
    (d.toBits.setWidth 32 <<< 2).getLsbD n =
      (decide (d = .connected) && decide (n = 2) || decide (d = .dmpReady) && decide (n = 3)) := by
  rcases n with _ | _ | _ | _ | n
  case succ.succ.succ.succ => simp [BitVec.getLsbD_shiftLeft, BitVec.getLsbD_setWidth]
  all_goals cases d <;> rfl

/-- STATUS shows each bit at its place, and no other (R23). -/
theorem getLsbD_statusWord (s : State) (n : Nat) :
    (statusWord s).getLsbD n =
      match n with
      | 0 => s.busy
      | 1 => s.bt.initd
      | 2 => decide (s.ae.devstat = .connected)
      | 3 => decide (s.ae.devstat = .dmpReady)
      | 4 => s.bt.bb
      | 5 => s.bt.stp
      | 6 => s.bt.ardy
      | 7 => s.bt.nack
      | 8 => s.bt.arbl
      | 9 => s.bt.mst
      | 10 => s.bt.trx
      | 11 => s.bt.rm
      | 12 => s.bt.qen
      | 13 => s.bt.irs
      | _ => false := by
  simp only [statusWord, BitVec.getLsbD_or, getLsbD_devstat, getLsbD_bitAt, Nat.reduceLT]
  split <;> simp [*]
  tauto

/-- RESULT bit by bit while BUSY = 0 (R24). -/
theorem getLsbD_resultWord {s : State} (hb : s.busy = false) {n : Nat} (hn : n < 32) :
    (resultWord s).getLsbD n =
      (s.result.code.toByte.getLsbD n || (decide (8 ≤ n) && s.result.cause.toByte.getLsbD (n - 8)) ||
        (s.result.rbit && decide (n = 16)) || (s.result.valid && decide (n = 17))) := by
  simp only [resultWord, hb, Bool.false_eq_true, if_false, BitVec.getLsbD_or, BitVec.getLsbD_shiftLeft,
    getLsbD_setWidth_word (show 8 ≤ 32 by omega), getLsbD_bitAt, Nat.reduceLT, hn, decide_true, Bool.true_and,
    ← Nat.not_lt, decide_not]

theorem resultWord_fields {s : State} (hb : s.busy = false) :
    (resultWord s).extractLsb' 0 8 = s.result.code.toByte ∧ (resultWord s).extractLsb' 8 8 = s.result.cause.toByte ∧
      (resultWord s).getLsbD 16 = s.result.rbit ∧ (resultWord s).getLsbD 17 = s.result.valid ∧
      (resultWord s).extractLsb' 18 14 = 0 := by
  have hout : ∀ (a : Byte) n, 8 ≤ n → a.getLsbD n = false := fun a n => BitVec.getLsbD_of_ge a n
  refine ⟨?_, ?_, ?_, ?_, ?_⟩
  · ext i hi
    rw [BitVec.getElem_extractLsb', getLsbD_resultWord hb (by omega)]
    simp [show ¬ 8 ≤ i by omega, show i ≠ 16 by omega, show i ≠ 17 by omega, BitVec.getLsbD_eq_getElem hi]
  · ext i hi
    rw [BitVec.getElem_extractLsb', getLsbD_resultWord hb (by omega), hout _ _ (by omega)]
    simp [show 8 + i ≠ 16 by omega, show 8 + i ≠ 17 by omega, BitVec.getLsbD_eq_getElem hi]
  · rw [getLsbD_resultWord hb (by omega), hout _ _ (by omega), hout _ _ (by omega)]
    simp
  · rw [getLsbD_resultWord hb (by omega), hout _ _ (by omega), hout _ _ (by omega)]
    simp
  · ext i hi
    rw [BitVec.getElem_extractLsb', getLsbD_resultWord hb (by omega), hout _ _ (by omega), hout _ _ (by omega)]
    simp [show 18 + i ≠ 16 by omega, show 18 + i ≠ 17 by omega]

/-- CURPOS bit by bit (R25). -/
theorem getLsbD_curposWord (p : ProgRegs) {n : Nat} (hn : n < 32) :
    (curposWord p).getLsbD n = ((decide (8 ≤ n) && p.curbank.getLsbD (n - 8)) || p.curoff.getLsbD n) := by
  simp only [curposWord, BitVec.getLsbD_or, BitVec.getLsbD_shiftLeft, getLsbD_setWidth_word (show 5 ≤ 32 by omega),
    getLsbD_setWidth_word (show 8 ≤ 32 by omega), hn, decide_true, Bool.true_and, ← Nat.not_lt, decide_not]

theorem curposWord_fields (p : ProgRegs) :
    (curposWord p).extractLsb' 0 8 = p.curoff ∧ (curposWord p).extractLsb' 8 5 = p.curbank ∧
      (curposWord p).extractLsb' 13 19 = 0 := by
  refine ⟨?_, ?_, ?_⟩ <;> ext i hi <;> rw [BitVec.getElem_extractLsb', getLsbD_curposWord p (by omega)]
  · simp [show ¬ 8 ≤ i by omega, BitVec.getLsbD_eq_getElem hi]
  · simp [BitVec.getLsbD_eq_getElem hi]
  · rw [BitVec.getLsbD_of_ge p.curbank (13 + i - 8) (by omega), BitVec.getLsbD_of_ge p.curoff (13 + i) (by omega)]
    simp

theorem toNat_bitAt_zero (v : Bool) : (bitAt v 0).toNat = if v then 1 else 0 := by
  cases v <;> rfl

/-- Settles O15: each host register is its state bits, shifted to their places. -/
theorem statusAndResultShowTheirBits : Obligations.StatusAndResultShowTheirBits := by
  refine ⟨fun s => ⟨fun hb => if_pos hb, resultWord_fields⟩, getLsbD_statusWord, fun s => ?_⟩
  refine ⟨rfl, rfl, ⟨_, rfl, curposWord_fields s.fp⟩, ⟨_, rfl, BitVec.toNat_setWidth_of_le (by omega)⟩,
    ⟨_, rfl, BitVec.toNat_setWidth_of_le (by omega)⟩, ⟨_, rfl, BitVec.toNat_setWidth_of_le (by omega)⟩,
    ⟨_, rfl, BitVec.toNat_setWidth_of_le (by omega)⟩, ⟨_, rfl, toNat_bitAt_zero _⟩, fun j hj => ?_⟩
  interval_cases j <;> rfl

end Sys2Proof.Machine
end

section
/-! SUPPORT. The sample commands: what ReadSample does with each reply (R241 to R246), read off from the step of either
command. -/

namespace Sys2Proof.Machine

/-! ### The step of a sample command -/

/-- What a sample command does with the return value of `ReadSample` (R240, R250). -/
def sampleEnd : Instr → Option Code → State → State
  | .rdavg _ => averageSampleEnd
  | _ => singleSampleEnd

theorem isCommand_of_readsSample {i : Instr} (h : readsSample i = true) : i.isCommand = true := by
  cases i
  case rdsmp | rdavg => rfl
  all_goals cases h

theorem ownsSite_of_readsSample {i : Instr} (h : readsSample i = true) (k : Site) : ownsSite i k = k.ofSample := by
  cases i
  case rdsmp | rdavg => rfl
  all_goals cases h

theorem cmdReply_of_readsSample {i : Instr} (h : readsSample i = true) (c : Cfg) (k : Site) (r : Reply) (s : State) :
    cmdReply c i k r s = (sampleReply k r s).elim (sampleEnd i) := by
  cases i
  case rdsmp | rdavg => rfl
  all_goals cases h

theorem sampleEnd_fail (i : Instr) (c : Code) (s : State) : sampleEnd i (some c) s = sampleFailed c s := by
  cases i <;> rfl

/-- A step at which the transaction of a sample command returns. -/
theorem exec_sample_done {i : Instr} {s u : State} {k : Site} {x : XferAt} {r : Reply} (hi : readsSample i = true)
    (hk : k.ofSample = true) (hp : s.seq.phase = .cmd k x) (hx : xferStep s x = .done r u) :
    exec i s = .next ((sampleReply k r u).elim (sampleEnd i)) := by
  rw [exec_cmd_done (isCommand_of_readsSample hi) (by rwa [ownsSite_of_readsSample hi]) hp hx,
    cmdReply_of_readsSample hi]

/-- But for the temperature read, which is its last, `ReadSample` goes on after each transaction (R241 to R243). -/
theorem sampleReply_run {k : Site} (hk : k.ofSample = true) (ht : k ≠ .temp) (buf : List Byte) (s : State) :
    ∃ t, sampleReply k (.ok buf) s = .run t := by
  cases k
  case fifoCount | intStatus =>
    simp only [sampleReply]
    split <;> exact ⟨_, rfl⟩
  case ovfRead | ovfWrite | packet => exact ⟨_, rfl⟩
  case temp => exact absurd rfl ht
  all_goals cases hk

/-- The step in which a transaction of a sample command, but the temperature read, has received or sent its bytes: its
STOP is requested and the next transaction has begun. -/
theorem exec_sample_run {i : Instr} {s : State} {k : Site} {x : XferAt} {buf : List Byte} (hi : readsSample i = true)
    (hk : k.ofSample = true) (ht : k ≠ .temp) (hp : s.seq.phase = .cmd k x)
    (hx : xferStep s x = .done (.ok buf) s.stop) :
    ∃ t, sampleReply k (.ok buf) s.stop = .run t ∧ exec i s = .next t ∧ stopRequested s t ∧ sameSample s t := by
  obtain ⟨t, hrun⟩ := sampleReply_run hk ht buf s.stop
  have hq := sampleReply_quiet k (.ok buf) s.stop
  have hs := sampleReply_onlySample k (.ok buf) s.stop
  rw [hrun] at hq hs
  refine ⟨t, hrun, ?_, hq.stopRequested (stopRequested_stop s), hs.bus.smpStatus, hs.bus.smp⟩
  rw [exec_sample_done hi hk hp hx, hrun]
  rfl

theorem xferStep_stop2 {s : State} {buf : List Byte} (hb : s.seq.rbuf = buf) :
    xferStep s (.r .stop2) = .done (.ok buf) s.stop := by
  rw [← hb]; rfl

theorem xferStep_sent {s : State} (hb : s.seq.txbuf = []) : xferStep s (.w .data) = .done (.ok []) s.stop := by
  simp only [xferStep, writeStep, hb]

theorem beginsDevRead_beginDevRead {s u : State} (hc : u.cfg = s.cfg) (k : Site) (reg : Byte) (n : BitVec 16) :
    beginsDevRead .cmd k reg n.toNat s (u.beginDevRead reg n (.cmd k)) :=
  ⟨rfl, rfl, ⟨congrArg (·.dev.devaddr) hc, rfl, rfl⟩, ⟨rfl, rfl⟩, rfl, rfl, rfl⟩

/-! ### The FIFO wait (R241, R242) -/

/-- A pair, high byte first, as a number (R77). -/
theorem toNat_append_byte (h l : Byte) : (h ++ l).toNat = h.toNat * 256 + l.toNat := by
  rw [BitVec.toNat_append, Nat.shiftLeft_eq, Nat.mul_comm, ← Nat.two_pow_add_eq_or_of_lt l.isLt]

theorem fifoOverflowed_iff (c : Cfg) (b : Byte) (n : BitVec 16) :
    fifoOverflowed c b n = true ↔ b &&& c.dev.fifoOflowMask ≠ 0 ∨ c.fifoOvfThreshold ≤ n.toNat := by
  simp [fifoOverflowed]

theorem acceptStep_sample {i : Instr} {s : State} (hi : readsSample i = true) (hl : operandsLegal s.cfg i = true)
    (hd : s.ae.devstat = .dmpReady) :
    acceptStep i s = fifoWait s ∧ i = .rdsmp ∨ ∃ n, acceptStep i s = averageEnter n s ∧ i = .rdavg n := by
  cases i
  case rdsmp => exact .inl ⟨by simp [acceptStep, hd], rfl⟩
  case rdavg n =>
    have hn : n ≠ 0 := by simpa [operandsLegal] using hl
    exact .inr ⟨n, by rw [acceptStep, if_neg hn, if_neg (not_not.mpr hd)], rfl⟩
  all_goals cases hi

theorem sampleReply_fifoCount {buf : List Byte} {s t : State} (h : sampleReply .fifoCount (.ok buf) s = .run t) :
    t.ae = { s.ae with fifocnt := pairAt buf 0 } ∧
    ((pairAt buf 0).toNat < pktSize → beginsDevRead .cmd .fifoCount s.cfg.dev.raFifoCountH 2 s t) ∧
    (pktSize ≤ (pairAt buf 0).toNat → beginsDevRead .cmd .intStatus s.cfg.dev.raIntStatus 1 s t) := by
  simp only [sampleReply] at h
  split at h <;> cases h <;> rename_i hn
  · exact ⟨rfl, fun _ => beginsDevRead_beginDevRead rfl _ _ 2, fun hge => absurd hn (by simpa using hge)⟩
  · exact ⟨rfl, fun hlt => absurd hlt hn, fun _ => beginsDevRead_beginDevRead rfl _ _ 1⟩

theorem sampleReply_intStatus {buf : List Byte} {s t : State} (h : sampleReply .intStatus (.ok buf) s = .run t) :
    t.ae = { s.ae with intstat := byteAt buf 0 } ∧
    (fifoOverflowed s.cfg (byteAt buf 0) s.ae.fifocnt = true →
      beginsDevRead .cmd .ovfRead s.cfg.dev.raUserCtrl 1 s t) ∧
    (fifoOverflowed s.cfg (byteAt buf 0) s.ae.fifocnt ≠ true →
      beginsDevRead .cmd .packet s.cfg.dev.raFifoRW 42 s t) := by
  simp only [sampleReply] at h
  split at h <;> cases h <;> rename_i hov
  · exact ⟨rfl, fun _ => beginsDevRead_beginDevRead rfl _ _ 1, fun hn => absurd hov hn⟩
  · exact ⟨rfl, fun hy => absurd hy hov, fun _ => beginsDevRead_beginDevRead rfl _ _ 42⟩

/-- Settles O43: each reply of the FIFO wait begins the transaction that R241 and R242 say. -/
theorem fifoWaitAndOverflow : Obligations.FifoWaitAndOverflow := by
  intro i s hi
  refine ⟨fun ha hl hd => ?_, fun h l hp hb => ?_, fun b hp hb => ?_⟩
  · refine ⟨_, exec_accepted ha (isCommand_of_readsSample hi), ?_⟩
    rcases acceptStep_sample hi hl hd with ⟨he, -⟩ | ⟨n, he, hn⟩ <;> rw [he]
    · exact ⟨rfl, ⟨rfl, rfl⟩, fun _ => rfl, beginsDevRead_beginDevRead rfl _ _ 2⟩
    · exact ⟨rfl, ⟨rfl, rfl⟩, fun hs => Instr.noConfusion (hs.symm.trans hn), beginsDevRead_beginDevRead rfl _ _ 2⟩
  · obtain ⟨t, hrun, he, hstop, hsame⟩ := exec_sample_run (k := .fifoCount) hi rfl nofun hp (xferStep_stop2 hb)
    obtain ⟨hae, hlow, hhigh⟩ := sampleReply_fifoCount hrun
    have hcount : (pairAt [h, l] 0).toNat = h.toNat * 256 + l.toNat := toNat_append_byte h l
    rw [hcount] at hlow hhigh
    exact ⟨t, he, hstop, hsame, hae, hlow, hhigh⟩
  · obtain ⟨t, hrun, he, hstop, hsame⟩ := exec_sample_run (k := .intStatus) hi rfl nofun hp (xferStep_stop2 hb)
    obtain ⟨hae, hov, hpkt⟩ := sampleReply_intStatus hrun
    refine ⟨t, he, hstop, hsame, hae, fun ho => hov ((fifoOverflowed_iff _ _ _).mpr ho), fun hm hn => hpkt ?_⟩
    rw [Ne, fifoOverflowed_iff, not_or]
    exact ⟨not_not.mpr hm, Nat.not_le.mpr hn⟩

/-! ### The FIFO reset (R242) -/

/-- Setting one bit of a byte is the OR with that bit (R14, R156). -/
theorem fieldInsert_one (b : Byte) (start : BitVec 3) :
    fieldInsert b start.toNat 1 1 = b ||| BitVec.ofNat 8 (2 ^ (7 - start.toNat)) := by
  have hmask : BitVec.ofNat 8 (2 ^ (7 - start.toNat)) = fieldMask start.toNat 1 := by
    revert start; decide
  have hbit : ((1 : Byte) &&& lowOnes 1) <<< fieldShift start.toNat 1 = fieldMask start.toNat 1 := rfl
  rw [fieldInsert, hbit, hmask]
  ext j hj
  simp only [BitVec.getElem_or, BitVec.getElem_and, BitVec.getElem_not]
  cases b[j] <;> cases (fieldMask start.toNat 1)[j] <;> rfl

/-- Settles O44: the reply of the reset's read begins the one write, and the write's reply the next wait. -/
theorem overflowResetsTheFifoOnce : Obligations.OverflowResetsTheFifoOnce := by
  intro i s hi
  refine ⟨fun b hp hb => ?_, fun hp hb => ?_⟩
  · obtain ⟨t, hrun, he, hstop, hsame⟩ := exec_sample_run (k := .ovfRead) hi rfl nofun hp (xferStep_stop2 hb)
    cases hrun
    refine ⟨_, he, hstop, hsame, rfl, rfl, rfl, ?_, ⟨rfl, rfl, rfl⟩, ⟨rfl, rfl⟩, rfl, rfl, rfl⟩
    rw [← fieldInsert_one]
    rfl
  · obtain ⟨t, hrun, he, hstop, hsame⟩ := exec_sample_run (k := .ovfWrite) hi rfl nofun hp (xferStep_sent hb)
    cases hrun
    exact ⟨_, he, hstop, hsame, rfl, beginsDevRead_beginDevRead rfl _ _ 2⟩

/-! ### The packet (R243) and a failure (R240) -/

/-- Settles O45: the reply of the packet read keeps the packet and its fields and begins the temperature read. -/
theorem packetFieldsAreExtracted : Obligations.PacketFieldsAreExtracted := by
  intro i s hi hp _ _
  obtain ⟨t, hrun, he, hstop, hsame⟩ := exec_sample_run (k := .packet) hi rfl nofun hp (xferStep_stop2 rfl)
  cases hrun
  exact ⟨_, he, hstop, hsame, rfl, rfl, beginsDevRead_beginDevRead rfl _ _ 2⟩

/-- Settles O49: a failed transaction makes the sample command fail with SMP_STATUS 0 and nothing else written. -/
theorem failedSampleKeepsTheOldOne : Obligations.FailedSampleKeepsTheOldOne := by
  intro i k x c s hi hk _ hp hx
  obtain ⟨u, hu, hbus, hinit⟩ := xferFails_done hx
  have he := exec_sample_done hi hk hp hu
  rw [show (sampleReply k (.fail c) u).elim (sampleEnd i) = sampleFailed c u from sampleEnd_fail i c u] at he
  exact ⟨_, he, rfl, hbus.smp, rfl, hbus.ae, hinit⟩

end Sys2Proof.Machine
end

section
/-! SUPPORT. The frames: what an instruction leaves alone, read off from the registers it owns (R38). -/

namespace Sys2Proof.Machine

/-! ### IMG, CFG and TRACE -/

theorem withOwned_trace (i : Instr) (s t : State) : (withOwned i s t).trace = s.trace := by
  cases i <;> rfl

/-- Settles O50: a step keeps the program, and appends to TRACE what its bus primitive has shown. -/
theorem noInstructionWritesImg : Obligations.NoInstructionWritesImg := by
  intro i s t h
  obtain ⟨hfixed, himg⟩ := exec_keepsProgram h
  refine ⟨State.imgByte_congr himg hfixed.2.2.1, hfixed, ?_⟩
  rcases exec_endsOrGoesOn h with ⟨e, rfl⟩ | hg
  · exact ⟨[], by cases e <;> exact (List.append_nil _).symm⟩
  · obtain ⟨es, he⟩ := hg.owned.trace
    exact ⟨es, by rw [he, withOwned_trace]⟩

/-! ### The registers of the units above BusTransport -/

/-- From `s` to `t` the registers of the units above BusTransport are as they were, but for those the instruction owns
(R38). -/
structure WritesOwned (i : Instr) (s t : State) : Prop where
  fp : t.fp = (withOwned i s t).fp
  ae : t.ae = (withOwned i s t).ae
  smpStatus : t.smpStatus = (withOwned i s t).smpStatus
  smp : t.smp = (withOwned i s t).smp
  pbuf : t.pbuf = (withOwned i s t).pbuf
  imgVerify : t.seq.imgVerify = (withOwned i s t).seq.imgVerify

theorem State.finish_writesOwned (i : Instr) (s : State) (e : Ending) : WritesOwned i s (s.finish e) := by
  cases i <;> cases e <;> exact ⟨rfl, rfl, rfl, rfl, rfl, rfl⟩

theorem exec_writesOwned {i : Instr} {s t : State} (h : exec i s = .next t) : WritesOwned i s t := by
  rcases exec_endsOrGoesOn h with ⟨e, rfl⟩ | hg
  · exact s.finish_writesOwned i e
  · obtain ⟨-, ho⟩ := hg
    exact ⟨ho.fp, ho.ae, ho.smpStatus, ho.smp, ho.pbuf, ho.imgVerify⟩

section
variable {i : Instr} {s t : State}

theorem WritesOwned.sampling (h : WritesOwned i s t) (hi : readsSample i = false) :
    sameSample s t ∧ t.ae.fifocnt = s.ae.fifocnt ∧ t.ae.intstat = s.ae.intstat ∧ t.ae.pkt = s.ae.pkt ∧
      t.ae.raw = s.ae.raw ∧ t.ae.rawt = s.ae.rawt ∧ t.ae.stg = s.ae.stg := by
  cases i
  case rdsmp | rdavg => cases hi
  all_goals
    exact ⟨⟨h.smpStatus, h.smp⟩, congrArg (·.fifocnt) h.ae, congrArg (·.intstat) h.ae, congrArg (·.pkt) h.ae,
      congrArg (·.raw) h.ae, congrArg (·.rawt) h.ae, congrArg (·.stg) h.ae⟩

theorem WritesOwned.averages (h : WritesOwned i s t) (hi : ∀ n, i ≠ .rdavg n) : sameAverages s t := by
  cases i
  case rdavg n => exact absurd rfl (hi n)
  all_goals exact ⟨congrArg (·.avgn) h.ae, congrArg (·.avgi) h.ae, congrArg (·.acc) h.ae⟩

theorem WritesOwned.samePbuf (h : WritesOwned i s t) (he : t.epoch = s.epoch)
    (hi : ∀ sa reg cnt, i ≠ .rdb sa reg cnt) : samePbuf s t := by
  refine State.pbufByte_congr ?_ he
  cases i
  case rdb sa reg cnt => exact absurd rfl (hi sa reg cnt)
  all_goals exact h.pbuf

theorem WritesOwned.cursor (h : WritesOwned i s t) (hr : runsImage i = false) (hc : i.isCommand = true) :
    t.fp.ipos = s.fp.ipos ∧ t.fp.iend = s.fp.iend := by
  cases i
  case upimg | setup => cases hr
  case recData | recSpcInten => cases hc
  all_goals exact ⟨congrArg (·.ipos) h.fp, congrArg (·.iend) h.fp⟩

theorem WritesOwned.imageEnd (h : WritesOwned i s t) (hc : i.isCommand = false) : t.fp.iend = s.fp.iend := by
  cases i
  case recData | recSpcInten => exact congrArg (·.iend) h.fp
  all_goals cases hc

theorem WritesOwned.upload (h : WritesOwned i s t) (hu : ∀ v b o n p, i ≠ .upblk v b o n p)
    (hd : ∀ b o d, i ≠ .recData b o d) :
    t.fp.curbank = s.fp.curbank ∧ t.fp.curoff = s.fp.curoff ∧ t.fp.remain = s.fp.remain ∧
      t.fp.srcptr = s.fp.srcptr ∧ t.fp.chunklen = s.fp.chunklen ∧ t.fp.verify = s.fp.verify ∧
      t.fp.vbuf = s.fp.vbuf := by
  cases i
  case upblk v b o n p => exact absurd rfl (hu v b o n p)
  case recData b o d => exact absurd rfl (hd b o d)
  all_goals
    exact ⟨congrArg (·.curbank) h.fp, congrArg (·.curoff) h.fp, congrArg (·.remain) h.fp,
      congrArg (·.srcptr) h.fp, congrArg (·.chunklen) h.fp, congrArg (·.verify) h.fp, congrArg (·.vbuf) h.fp⟩

theorem WritesOwned.verify (h : WritesOwned i s t) (hi : runsImage i = false) :
    t.seq.imgVerify = s.seq.imgVerify := by
  cases i
  case upimg | setup => cases hi
  all_goals exact h.imgVerify

end

/-! ### The verify argument of the running image (R206) -/

/-- From `s` to `t` the verify argument is as it was, or the record loop has been entered. -/
def VerifyKept (s t : State) : Prop := t.seq.imgVerify = s.seq.imgVerify ∨ t.seq.phase = .image

theorem upimg_verifyKept (v : BitVec 1) (len src : BitVec 16) (s : State) :
    VerifyKept s (acceptStep (.upimg v len src) s) := by
  simp only [acceptStep, State.ifInitd]
  split
  · exact .inl rfl
  · split
    · exact .inr rfl
    · exact .inl rfl

theorem setup_verifyKept (c : Cfg) (k : Site) (r : Reply) (s : State) : VerifyKept s (cmdReply c .setup k r s) := by
  simp only [cmdReply, identityReply]
  split
  · exact .inr rfl
  · split
    · exact .inl rfl
    · exact .inl rfl

/-- The commands that run an image write the verify argument where they enter the record loop, and nowhere else. -/
theorem exec_verifyKept {i : Instr} {s t : State} (hi : runsImage i = true) (h : exec i s = .next t) :
    t.seq.imgVerify = s.seq.imgVerify ∨ t.seq.phase = .image ∧ s.seq.phase.inImage = false := by
  have hcmd : i.isCommand = true := by
    cases i
    case upimg | setup => rfl
    all_goals cases hi
  rcases exec_cases h with ⟨hp, -, rfl⟩ | ⟨k, x, hp, -, hk, rfl⟩ | ⟨-, -, rfl⟩ | ⟨k, x, -, hn, -⟩ |
    ⟨r, -, -, rfl⟩ | ⟨e, -, -, rfl⟩
  · rw [hp]
    cases i
    case upimg v len src => exact (upimg_verifyKept v len src s).imp_right fun h => ⟨h, rfl⟩
    case setup => exact .inl rfl
    all_goals cases hi
  · rw [hp]
    cases i
    case setup =>
      refine (?_ : VerifyKept s _).imp_right fun h => ⟨h, rfl⟩
      exact State.xfer_of (.inl rfl) (fun y u hy => .inl (xferStep_go hy).2.1.imgVerify) fun r u hu =>
        (setup_verifyKept _ k r u).imp_left fun h => h.trans (xferStep_done hu).1.imgVerify
    case upimg => cases hk
    all_goals cases hi
  · cases i
    case upimg | setup => exact .inl rfl
    all_goals cases hi
  · cases hcmd.symm.trans hn
  · cases i
    case upimg | setup => cases r <;> exact .inl rfl
    all_goals cases hi
  · cases e <;> exact .inl rfl

/-! ### The sample, before the end of the temperature read (R33) -/

/-- From `s` to `t` the sample is as it was, but for SMP_STATUS where the command goes to its failure. -/
def SampleKept (s t : State) : Prop :=
  t.smp = s.smp ∧ ((∀ c, t.seq.phase ≠ .ending (.fail c .ok)) → t.smpStatus = s.smpStatus)

theorem SampleKept.of_sameSample {s t : State} (h : sameSample s t) : SampleKept s t := ⟨h.2, fun _ => h.1⟩

theorem acceptStep_sampleKept {i : Instr} (hi : readsSample i = true) (s : State) : SampleKept s (acceptStep i s) := by
  refine .of_sameSample ?_
  cases i <;> simp only [acceptStep]
  case rdsmp => split <;> exact ⟨rfl, rfl⟩
  case rdavg =>
    split
    · exact ⟨rfl, rfl⟩
    · split <;> exact ⟨rfl, rfl⟩
  all_goals cases hi

/-- A procedure returns Ok at the last place of a call site's procedure. -/
theorem replyFits_ok_read {s : State} {k : Site} {x : XferAt} {buf : List Byte} (hk : siteReads k = true)
    (hm : siteMatches k x = true) (h : replyFits s x (.ok buf)) : x = .r .stop2 ∧ buf = s.seq.rbuf := by
  rcases h with ⟨rfl, -⟩ | h
  · simp [siteMatches, hk] at hm
  · exact h

/-- A sample command that has not yet read the temperature leaves the sample and RDAVG's registers as they are. -/
theorem sampleStep_keeps {i : Instr} {s : State} {k : Site} {x : XferAt} (hi : readsSample i = true)
    (hk : k.ofSample = true) (hm : siteMatches k x = true) (ht : k = .temp → x ≠ .r .stop2) (c : Cfg) :
    SampleKept s (s.xfer x (.cmd k) (cmdReply c i k)) ∧ sameAverages s (s.xfer x (.cmd k) (cmdReply c i k)) := by
  refine State.xfer_of (P := fun t => SampleKept s t ∧ sameAverages s t)
    ⟨.of_sameSample ⟨rfl, rfl⟩, rfl, rfl, rfl⟩ (fun y u hy => ?_) fun r u hu => ?_
  · have hb := (xferStep_go hy).2.1
    exact ⟨.of_sameSample ⟨hb.smpStatus, hb.smp⟩, congrArg (·.avgn) hb.ae, congrArg (·.avgi) hb.ae,
      congrArg (·.acc) hb.ae⟩
  · obtain ⟨hb, hfits, -⟩ := xferStep_done hu
    have hav : sameAverages s u := ⟨congrArg (·.avgn) hb.ae, congrArg (·.avgi) hb.ae, congrArg (·.acc) hb.ae⟩
    rw [cmdReply_of_readsSample hi]
    cases r with
    | fail code =>
      rw [show (sampleReply k (.fail code) u).elim (sampleEnd i) = _ from sampleEnd_fail i code u]
      exact ⟨⟨hb.smp, fun h => absurd rfl (h code)⟩, hav⟩
    | ok buf =>
      have hne : k ≠ .temp := fun he => ht he (replyFits_ok_read (by rw [he]; rfl) hm hfits).1
      obtain ⟨t, hrun⟩ := sampleReply_run hk hne buf u
      have hs := sampleReply_onlySample k (.ok buf) u
      rw [hrun] at hs ⊢
      obtain ⟨an, ai, ac⟩ := hav
      exact ⟨.of_sameSample ⟨hs.bus.smpStatus.trans hb.smpStatus, hs.bus.smp.trans hb.smp⟩,
        hs.avgn.trans an, hs.avgi.trans ai, hs.acc.trans ac⟩

/-- Only at the end of a temperature read, and at the start of RDAVG, does an instruction write the sample or RDAVG's
registers, but for SMP_STATUS at a failure (R33, R34). -/
theorem exec_before_temperature {i : Instr} {s t : State} (h : exec i s = .next t)
    (hf : phaseFits i s.seq.phase = true) (ht : s.seq.phase ≠ .cmd .temp (.r .stop2)) :
    SampleKept s t ∧ (s.seq.phase ≠ .accepted → sameAverages s t) := by
  have how := exec_writesOwned h
  by_cases hi : readsSample i = true
  · rcases exec_cases h with ⟨hp, -, rfl⟩ | ⟨k, x, hp, -, hk, rfl⟩ | ⟨-, hr, -⟩ | ⟨k, x, -, hn, -⟩ | ⟨r, -, hr, -⟩ |
      ⟨e, -, -, rfl⟩
    · exact ⟨acceptStep_sampleKept hi s, fun hn => absurd hp hn⟩
    · rw [hp] at hf
      simp only [phaseFits, Bool.and_eq_true] at hf
      rw [ownsSite_of_readsSample hi] at hk
      obtain ⟨hkept, hav⟩ := sampleStep_keeps hi hk hf.2 (fun hk hx => ht (by rw [hp, hk, hx])) s.cfg
      exact ⟨hkept, fun _ => hav⟩
    · cases i
      case rdsmp | rdavg => exact absurd hr (by simp [runsImage, Instr.isCommand])
      all_goals cases hi
    · cases (isCommand_of_readsSample hi).symm.trans hn
    · cases i
      case rdsmp | rdavg => cases hr
      all_goals cases hi
    · refine ⟨.of_sameSample ?_, fun _ => ?_⟩ <;> cases e
      · exact ⟨rfl, rfl⟩
      · exact ⟨rfl, rfl⟩
      · exact ⟨rfl, rfl, rfl⟩
      · exact ⟨rfl, rfl, rfl⟩
  · have hi : readsSample i = false := Bool.eq_false_iff.mpr hi
    exact ⟨.of_sameSample (how.sampling hi).1, fun _ => how.averages fun n hn => by subst hn; cases hi⟩

/-- Settles O51: each clause is what the instruction's own registers leave of the state. -/
theorem onlyItsOwnersWriteState : Obligations.OnlyItsOwnersWriteState := by
  intro i s t h
  have how := exec_writesOwned h
  refine ⟨fun hi => (exec_endsOrGoesOn h).devstat hi, how.sampling, fun hf ht => ?_, how.averages, fun him => ?_,
    how.samePbuf (exec_keepsProgram h).fixed.2.2.1, how.cursor, how.imageEnd, how.upload⟩
  · obtain ⟨⟨hsmp, hstatus⟩, hav⟩ := exec_before_temperature h hf ht
    exact ⟨hsmp, hstatus, hav⟩
  · by_cases hi : runsImage i = true
    · rcases exec_verifyKept hi h with hv | ⟨hp, hn⟩
      · exact hv
      · exact absurd him (by simp [hp, hn])
    · exact how.verify (Bool.eq_false_iff.mpr hi)

/-! ### PBUF (R71) -/

/-- Settles O52: the reply of RDB's read stores what it has received, and no other step writes PBUF. -/
theorem rdbWritesReceivedBytesOnly : Obligations.RdbWritesReceivedBytesOnly := by
  intro sa reg cnt s t h
  have hepoch := (exec_keepsProgram h).fixed.2.2.1
  refine ⟨fun hne => ?_, fun hp a => ?_⟩
  · rcases exec_cases h with ⟨-, -, rfl⟩ | ⟨k, x, hp, -, hk, rfl⟩ | ⟨-, hr, -⟩ | ⟨k, x, -, hn, -⟩ | ⟨r, -, hr, -⟩ |
      ⟨e, -, -, rfl⟩
    · refine State.pbufByte_congr ?_ hepoch
      simp only [acceptStep, State.ifInitd]
      split
      · rfl
      · split <;> rfl
    · have hk : k = .rdb := by simpa [ownsSite] using hk
      refine State.xfer_of (P := samePbuf s) (fun _ => rfl) (fun y u hy => ?_) fun r u hu => ?_
      · have hb := (xferStep_go hy).2.1
        exact State.pbufByte_congr hb.pbuf hb.epoch
      · obtain ⟨hb, hfits, -⟩ := xferStep_done hu
        have hsame : samePbuf s u := State.pbufByte_congr hb.pbuf hb.epoch
        cases r with
        | fail c => exact hsame
        | ok buf =>
          rcases hfits with ⟨-, -, rfl⟩ | ⟨rfl, -⟩
          · exact hsame
          · exact absurd (hk ▸ hp) hne
    · exact absurd hr (by simp [runsImage, Instr.isCommand])
    · cases hn
    · cases hr
    · exact State.pbufByte_congr (by cases e <;> rfl) hepoch
  · rw [exec_cmd hp rfl rfl, State.xfer_done (xferStep_stop2 rfl)] at h
    cases h
    rw [show (cmdReply s.cfg (.rdb sa reg cnt) .rdb (.ok s.seq.rbuf) s.stop).pbufByte a =
      (s.stop.storePbuf s.seq.rbuf).pbufByte a from rfl, State.pbufByte_storePbuf]
    rfl

/-! ### TMPB (R26) -/

theorem xferStep_done_tmpb {s u : State} {x : XferAt} {r : Reply} (h : xferStep s x = .done r u) :
    u.bt.tmpb = s.bt.tmpb := by
  by_cases hx : x = .r .timeout
  · subst hx
    cases h
    rfl
  · exact ((xferStep_done h).2.2 hx).tmpb

/-- A caller inside a transaction leaves TMPB as it is wherever its use of the reply does. -/
theorem State.xfer_tmpb {s : State} {x : XferAt} {here : XferAt → Phase} {reply : Reply → State → State}
    (h : ∀ r u, xferStep s x = .done r u → (reply r u).bt.tmpb = u.bt.tmpb) :
    (s.xfer x here reply).bt.tmpb = s.bt.tmpb :=
  State.xfer_of (P := fun t => t.bt.tmpb = s.bt.tmpb) rfl (fun _ _ hy => (xferStep_go hy).2.2.1.tmpb)
    fun r u hu => (h r u hu).trans (xferStep_done_tmpb hu)

theorem ProcNext.elim_tmpb {s : State} {p : ProcNext} {ret : Option Code → State → State}
    (hp : p.state.bt.tmpb = s.bt.tmpb) (hret : ∀ r t, (ret r t).bt.tmpb = t.bt.tmpb) :
    (p.elim ret).bt.tmpb = s.bt.tmpb :=
  ProcNext.elim_of (P := fun t => t.bt.tmpb = s.bt.tmpb) (fun _ h => by subst h; exact hp)
    fun r t h => by subst h; exact (hret r t).trans hp

theorem endUpload_tmpb (code : Code) (r : Option Code) (s : State) : (endUpload code r s).bt.tmpb = s.bt.tmpb := by
  cases r <;> rfl

theorem recordEnd_tmpb (size : Nat) (r : Option Code) (s : State) : (recordEnd size r s).bt.tmpb = s.bt.tmpb := by
  cases r <;> rfl

theorem setupIdentified_tmpb (r : Option Code) (s : State) : (setupIdentified r s).bt.tmpb = s.bt.tmpb := by
  cases r <;> rfl

theorem identityReply_tmpb (r : Reply) (s : State) : (identityReply r s).state.bt.tmpb = s.bt.tmpb := by
  simp only [identityReply]
  split
  · rfl
  · split <;> rfl

theorem sampleEnd_tmpb (i : Instr) (r : Option Code) (s : State) : (sampleEnd i r s).bt.tmpb = s.bt.tmpb := by
  cases i
  case rdavg =>
    cases r with
    | some c => rfl
    | none =>
      simp only [sampleEnd, averageSampleEnd]
      split <;> rfl
  all_goals cases r <;> rfl

/-- Of the replies of `ReadSample` only the byte that the FIFO reset reads goes to TMPB (R242). -/
theorem sampleReply_tmpb {k : Site} {r : Reply} (h : k = .ovfRead → ∀ buf, r ≠ .ok buf) (s : State) :
    (sampleReply k r s).state.bt.tmpb = s.bt.tmpb := by
  cases r with
  | fail c => rfl
  | ok buf =>
    cases k
    case ovfRead => exact absurd rfl (h rfl buf)
    case fifoCount | intStatus =>
      simp only [sampleReply]
      split <;> rfl
    all_goals rfl

theorem State.ifInitd_tmpb {s : State} {go : State → State} (h : (go s).bt.tmpb = s.bt.tmpb) :
    (s.ifInitd go).bt.tmpb = s.bt.tmpb := by
  unfold State.ifInitd
  split
  · exact h
  · rfl

theorem acceptStep_tmpb (i : Instr) (s : State) : (acceptStep i s).bt.tmpb = s.bt.tmpb := by
  cases i <;> simp only [acceptStep]
  case init | setup => rfl
  case rdbit | dwb | selbank | setaddr => exact s.ifInitd_tmpb rfl
  case wrb | rdb | wrbit | wrbf | dwbf | upimg =>
    split
    · rfl
    · exact s.ifInitd_tmpb rfl
  case upblk =>
    split
    · rfl
    · split
      · rfl
      · exact s.ifInitd_tmpb
          (ProcNext.elim_tmpb (blockEnter_onlyUpload .cmd _ _ _ _ _ s).control.tmpb (endUpload_tmpb _))
  case rdsmp => split <;> rfl
  case rdavg =>
    split
    · rfl
    · split <;> rfl

theorem imageStep_tmpb (i : Instr) (s : State) : (imageStep i s).bt.tmpb = s.bt.tmpb := by
  cases i
  case recData =>
    simp only [imageStep]
    split
    · rfl
    · exact ProcNext.elim_tmpb (blockEnter_onlyUpload .record _ _ _ _ _ s).control.tmpb (recordEnd_tmpb _)
  all_goals rfl

theorem recReply_tmpb (i : Instr) (k : Site) (r : Reply) (s : State) : (recReply i k r s).bt.tmpb = s.bt.tmpb := by
  cases i
  case recData => exact ProcNext.elim_tmpb (blockReply_onlyUpload .record k r s).control.tmpb (recordEnd_tmpb _)
  case recSpcInten => cases r <;> rfl
  all_goals rfl

theorem imageDoneStep_tmpb (i : Instr) (r : Option Code) (s : State) :
    (imageDoneStep i r s).bt.tmpb = s.bt.tmpb := by
  cases i
  case upimg | setup => cases r <;> rfl
  all_goals rfl

/-- The call sites whose byte goes to TMPB: the reads of RDBIT, of a read-modify-write and of the FIFO reset (R26, R157,
R159, R242). -/
def byteSites : List Site := [.rdbit, .rmwRead, .ovfRead]

theorem rmwReply_tmpb {k : Site} {r : Reply} (h : k ∈ byteSites → ∀ buf, r ≠ .ok buf) (sa : BitVec 7) (reg : Byte)
    (start width : Nat) (value : Byte) (s : State) :
    (if k = .rmwRead then rmwReadReply sa reg start width value r s else endWith r s).bt.tmpb = s.bt.tmpb := by
  cases r with
  | fail c => split <;> rfl
  | ok buf =>
    split
    · subst k; exact absurd rfl (h (by decide) buf)
    · rfl

/-- A command's use of a reply writes TMPB at those call sites alone, and there only what has been received. -/
theorem cmdReply_tmpb {i : Instr} {k : Site} {r : Reply} (hk : ownsSite i k = true)
    (h : k ∈ byteSites → ∀ buf, r ≠ .ok buf) (c : Cfg) (s : State) : (cmdReply c i k r s).bt.tmpb = s.bt.tmpb := by
  cases i
  case rdbit =>
    cases r with
    | fail c => rfl
    | ok buf =>
      obtain rfl : k = .rdbit := by simpa [ownsSite] using hk
      exact absurd rfl (h (by decide) buf)
  case wrbit | wrbf | dwbf => exact rmwReply_tmpb h _ _ _ _ _ s
  case upblk => exact ProcNext.elim_tmpb (blockReply_onlyUpload .cmd k r s).control.tmpb (endUpload_tmpb _)
  case setup => exact ProcNext.elim_tmpb (identityReply_tmpb r s) setupIdentified_tmpb
  case rdsmp =>
    exact ProcNext.elim_tmpb (sampleReply_tmpb (fun hk => h (by rw [hk]; decide)) s) (sampleEnd_tmpb .rdsmp)
  case rdavg n =>
    exact ProcNext.elim_tmpb (sampleReply_tmpb (fun hk => h (by rw [hk]; decide)) s) (sampleEnd_tmpb (.rdavg n))
  all_goals cases r <;> rfl

theorem keepsByte_of_byteSite {i : Instr} {k : Site} (hk : ownsSite i k = true) (hm : k ∈ byteSites) :
    keepsByte i = false := by
  simp only [byteSites, List.mem_cons, List.not_mem_nil, or_false] at hm
  cases i
  case rdbit | wrbit | wrbf | dwbf | rdsmp | rdavg => rfl
  all_goals rcases hm with rfl | rfl | rfl <;> exact Bool.noConfusion hk

/-- A step writes TMPB only where the read of such a call site has received its byte. -/
theorem exec_tmpb {i : Instr} {s t : State} (h : exec i s = .next t)
    (hn : ∀ k x, s.seq.phase = .cmd k x → ownsSite i k = true → k ∈ byteSites →
      ∀ buf u, xferStep s x ≠ .done (.ok buf) u) : t.bt.tmpb = s.bt.tmpb := by
  rcases exec_cases h with ⟨-, -, rfl⟩ | ⟨k, x, hp, -, hk, rfl⟩ | ⟨-, -, rfl⟩ | ⟨k, x, -, -, -, rfl⟩ |
    ⟨r, -, -, rfl⟩ | ⟨e, -, -, rfl⟩
  · exact acceptStep_tmpb i s
  · exact State.xfer_tmpb fun r u hu =>
      cmdReply_tmpb hk (fun hm buf hr => hn k x hp hk hm buf u (hr ▸ hu)) s.cfg u
  · exact imageStep_tmpb i s
  · exact State.xfer_tmpb fun r u _ => recReply_tmpb i k r u
  · exact imageDoneStep_tmpb i r s
  · cases e <;> rfl

/-! ### The controller, BUSY and RESULT -/

/-- Settles O53: the controller by `exec_controller`, TMPB by `exec_tmpb`, BUSY and RESULT by the two kinds of step. -/
theorem onlyResetsWriteTheController : Obligations.OnlyResetsWriteTheController := by
  intro i s t h
  refine ⟨fun ha hx => ?_, fun hi => ?_, fun hf hne => ?_, fun hp => ?_⟩
  · rcases exec_controller h with hs | ⟨⟨hp, hi⟩ | ⟨k, hp⟩, -⟩
    · exact hs
    · obtain ⟨hinit, hsetup⟩ := ha hp
      exact (hi.elim hinit hsetup).elim
    · obtain ⟨hc, hr⟩ := hx k
      exact (hp.elim hc hr).elim
  · exact exec_tmpb h fun k x _ hk hm => nomatch hi.symm.trans (keepsByte_of_byteSite hk hm)
  · refine exec_tmpb h fun k x hp hk hm buf u hu => hne k hm ?_
    rw [hp] at hf ⊢
    simp only [phaseFits, Bool.and_eq_true] at hf
    have hread : siteReads k = true := by
      revert hm; cases k <;> decide
    rw [(replyFits_ok_read hread hf.2 (xferStep_done hu).2.1).1]
  · rcases exec_endsOrGoesOn h with ⟨e, rfl⟩ | hg
    · exact absurd (by cases e <;> rfl) hp
    · exact ⟨by rw [hg.owned.busy, withOwned_busy], by rw [hg.owned.result, withOwned_result]⟩

end Sys2Proof.Machine
end

section
/-! SUPPORT. The Start of a transaction (R143, R144): what it comes to with an answer ready, and what its caller
shows. -/

namespace Sys2Proof.Machine

/-- The direction of the Start at a place (R152, R153). -/
def XferAt.dir (x : XferAt) : Dir := if x = .r .start2 then .read else .write

/-- From `s` to `u` a START and its address byte have been answered on the bus, before the procedure does anything with
the answer. -/
structure Started (dir : Dir) (ans : Answer) (s u : State) : Prop where
  bt : u.bt = noteAnswer ans (startModes dir s.bt)
  trace : u.trace = s.trace ++ [.start, .addr s.bt.sa dir ans]
  ae : u.ae = s.ae
  cfg : u.cfg = s.cfg

theorem busHeld_of_busFree {s : State} (h : busFree s) : busHeld s.bt = false := by
  simp [busHeld, h.1, h.2]

/-- At every place of a Start, a lost arbitration ends the procedure and any other answer goes on (R144, R147). -/
theorem xferStep_start {s u : State} {x : XferAt} {ans : Answer} (hx : x.atStart = true) (hf : busHeld s.bt = false)
    (hs : s.start x.dir = (ans, u)) :
    (ans ≠ .arblost → ∃ y, xferStep s x = .go y u) ∧
      (ans = .arblost → xferStep s x = .done (.fail .arbLost) u.dropTrx) := by
  rcases x with (_ | _ | _ | _ | _) | (_ | _ | _ | _ | _ | _ | _ | _ | _)
  case w.start | r.start1 | r.start2 =>
    simp only [XferAt.dir, XferAt.r.injEq, reduceCtorEq, if_true, if_false] at hs
    simp only [xferStep, writeStep, readStep, hf, hs, Bool.false_eq_true, if_false]
    cases ans with
    | ack | nack => exact ⟨fun _ => ⟨_, rfl⟩, nofun⟩
    | arblost => exact ⟨fun hn => absurd rfl hn, fun _ => rfl⟩
  all_goals cases hx

theorem State.start_started {s : State} {dir : Dir} {ans : Answer} {rest : List Answer} (h : s.env.addr = ans :: rest) :
    ∃ u, s.start dir = (ans, u) ∧ Started dir ans s u := by
  obtain ⟨e, -, hs⟩ := State.start_ready (dir := dir) h
  exact ⟨_, hs, rfl, rfl, rfl, rfl⟩

/-- An answer that is no lost arbitration leaves the block master of the bus, in its direction, and a NACK is noted
(R29, R144). -/
theorem Started.kept {s u : State} {dir : Dir} {ans : Answer} (h : Started dir ans s u) (ha : ans ≠ .arblost) :
    u.bt.bb = true ∧ (ans = .nack → u.bt.nack = true) ∧ u.bt.mst = true ∧ (u.bt.trx = true ↔ dir = .write) := by
  simp only [h.bt]
  cases ans with
  | ack => exact ⟨rfl, nofun, rfl, decide_eq_true_iff⟩
  | nack => exact ⟨rfl, fun _ => rfl, rfl, decide_eq_true_iff⟩
  | arblost => exact absurd rfl ha

/-- Lost arbitration leaves BB set and STP as it was, clears MST and sets ARBL (R147). -/
theorem Started.lost {s u : State} {dir : Dir} (h : Started dir .arblost s u) :
    u.bt.bb = true ∧ u.bt.stp = s.bt.stp ∧ u.bt.mst = false ∧ u.bt.arbl = true := by
  simp only [h.bt, noteAnswer, startModes, and_self]

theorem XferAt.dir_eq_write_iff (x : XferAt) : x.dir = .write ↔ x ≠ .r .start2 := by
  unfold XferAt.dir
  split <;> simp_all

/-- The receiver is the idle mode again wherever a procedure has lost arbitration, and only an identity check that has
an attempt left begins it (R147, R233). -/
theorem CallerAt.arbitrationLost_of {k : Site} {reply : Reply → State → State} (hc : CallerAt k reply) {s u : State}
    (hmst : u.bt.mst = false) (harbl : u.bt.arbl = true) (hae : u.ae = s.ae) (hcfg : u.cfg = s.cfg) :
    Machine.arbitrationLost k s (reply (.fail .arbLost) u.dropTrx) := by
  obtain ⟨-, -, qmst, qtrx⟩ := (hc.quiet (.fail .arbLost) u.dropTrx).wire
  refine ⟨⟨qmst.trans hmst, qtrx⟩, fun hlast => ?_, fun hk hleft => ?_⟩
  · rw [hc.failed .arbLost u.dropTrx (by simpa [hae, hcfg] using hlast)]
    exact harbl
  · rw [hc.again .arbLost u.dropTrx hk (by simpa [hae, hcfg] using hleft)]
    refine ⟨rfl, congrArg (·.idtry + 1) hae, ?_⟩
    rw [← hcfg]
    exact beginsDevRead_beginDevRead hcfg .identity _ 1

/-- Settles O17: held where the guard is closed; where it is open the Start's answer is what its caller shows. -/
theorem startIsHeldUntilTheBusIsFree : Obligations.StartIsHeldUntilTheBusIsFree := by
  intro i s k x hfit hp hx
  obtain ⟨here, hh, hp⟩ : ∃ here : Site → XferAt → Phase, (here = .cmd ∨ here = .record) ∧ s.seq.phase = here k x :=
    hp.elim (fun h => ⟨.cmd, .inl rfl, h⟩) fun h => ⟨.record, .inr rfl, h⟩
  obtain ⟨reply, hc, he⟩ := exec_site hh hp hfit
  rw [he]
  refine ⟨fun hheld => ?_, fun hfree ans rest ha => ⟨_, rfl, ?_⟩⟩
  · have hb : busHeld s.bt = true := by simpa [busHeld] using hheld
    rw [State.xfer_hold ((xferStep_hold_iff s x).mpr ⟨hx, hb⟩)]
  · obtain ⟨u, hs, hu⟩ := State.start_started (dir := x.dir) ha
    obtain ⟨hgo, hlost⟩ := xferStep_start hx (busHeld_of_busFree hfree) hs
    by_cases hans : ans = .arblost
    · subst hans
      rw [State.xfer_done (hlost rfl)]
      obtain ⟨hbb, hstp, hmst, harbl⟩ := hu.lost
      have hq := hc.quiet (.fail .arbLost) u.dropTrx
      obtain ⟨qbb, qstp, -⟩ := hq.wire
      exact ⟨hq.trace.trans hu.trace, qbb.trans hbb, nofun, fun hn => absurd rfl hn,
        fun _ => ⟨qstp.trans (hstp.trans hfree.1), hc.arbitrationLost_of hmst harbl hu.ae hu.cfg⟩⟩
    · obtain ⟨y, hy⟩ := hgo hans
      rw [State.xfer_go hy]
      obtain ⟨hbb, hnack, hmst, htrx⟩ := hu.kept hans
      exact ⟨hu.trace, hbb, hnack, fun _ => ⟨hmst, htrx.trans x.dir_eq_write_iff⟩, fun hl => absurd hl hans⟩

end Sys2Proof.Machine
end

section
/-! SUPPORT. Moves that write memory or the wire: what the host's byte writes and ENV's moves come to (R71, R72, R91,
R92), and that PBUF and IMG keep their canonical form. -/

namespace Sys2Proof.Machine

/-! ### Every step keeps the canonical form of PBUF and IMG -/

/-- From `s` to `t` bytes have been written to PBUF from index 0, possibly none. -/
def StoresInPbuf (s t : State) : Prop := ∃ bytes, t.pbuf = Memory.writeAll s.pbuf 0 bytes

theorem StoresInPbuf.of_eq {s t : State} (h : t.pbuf = s.pbuf) : StoresInPbuf s t := ⟨[], h⟩

/-- The reply of RDB's read stores what it has received; no other step of RDB writes PBUF (R155). -/
theorem exec_rdb_storesInPbuf {sa : BitVec 7} {reg : Byte} {cnt : BitVec 16} {s t : State}
    (h : exec (.rdb sa reg cnt) s = .next t) : StoresInPbuf s t := by
  rcases exec_cases h with ⟨-, -, rfl⟩ | ⟨k, x, -, -, -, rfl⟩ | ⟨-, hr, -⟩ | ⟨k, x, -, hn, -⟩ | ⟨r, -, hr, -⟩ |
    ⟨e, -, -, rfl⟩
  · refine .of_eq ?_
    simp only [acceptStep, State.ifInitd]
    split
    · rfl
    · split <;> rfl
  · refine State.xfer_of (P := StoresInPbuf s) (.of_eq rfl) (fun y u hy => .of_eq (xferStep_go hy).2.1.pbuf)
      fun r u hu => ?_
    have hsame : u.pbuf = s.pbuf := (xferStep_done hu).1.pbuf
    cases r with
    | ok buf => exact ⟨buf, congrArg (Memory.writeAll · 0 buf) hsame⟩
    | fail c => exact .of_eq hsame
  · exact absurd hr (by simp [runsImage, Instr.isCommand])
  · cases hn
  · cases hr
  · exact .of_eq (by cases e <;> rfl)

/-- An instruction writes PBUF from index 0 or not at all: PBUF is RDB's alone (R38). -/
theorem exec_storesInPbuf {i : Instr} {s t : State} (h : exec i s = .next t) : StoresInPbuf s t := by
  have hpbuf := (exec_writesOwned h).pbuf
  cases i
  case rdb => exact exec_rdb_storesInPbuf h
  all_goals exact .of_eq hpbuf

theorem exec_keeps_memoryInv {i : Instr} {s t : State} (hs : memoryInv s) (h : exec i s = .next t) :
    memoryInv t := by
  obtain ⟨hpbuf, himg⟩ := hs
  obtain ⟨bytes, hstored⟩ := exec_storesInPbuf h
  exact ⟨hstored ▸ Memory.wf_writeAll bytes hpbuf 0, (exec_keepsProgram h).img ▸ himg⟩

/-- Every turn of an agent keeps the canonical form. -/
theorem turn_keeps_memoryInv {u t : State} (h : memoryInv u) (ht : Turn u t) : memoryInv t := by
  have ⟨hpbuf, himg⟩ := h
  cases ht with
  | lift => rw [liftHold_eq]; exact h
  | run i t hp hf he => exact exec_keeps_memoryInv h he
  | pbuf a v => exact ⟨Memory.wf_write hpbuf a v, himg⟩
  | img a v => exact ⟨hpbuf, Memory.wf_write himg a v⟩
  | reset => exact ⟨rfl, rfl⟩
  | stay | reject | accept | stopped | foreign => exact h

/-- Settles O58: each turn keeps the canonical form. -/
theorem memoriesStayCanonical : Obligations.MemoriesStayCanonical :=
  fun _ _ => step_keeps (P := memoryInv) (fun _ _ h => h) fun _ _ _ => turn_keeps_memoryInv

/-! ### Host writes of a byte (R71, R72) -/

theorem hostWritePbuf_free {s : State} {a : Nat} (hb : s.busy = false) (ha : a < s.cfg.pbufSize) (v : Byte) :
    hostWritePbuf a v s = .next { s with pbuf := Memory.write s.pbuf a v } := by
  simp [hostWritePbuf, hb, ha]

theorem hostWriteImg_free {s : State} {a : Nat} (hb : s.busy = false) (ha : a < s.cfg.imgSize) (v : Byte) :
    hostWriteImg a v s = .next { s with img := Memory.write s.img a v } := by
  simp [hostWriteImg, hb, ha]

theorem State.pbufByte_write {s t : State} {a : Nat} {v : Byte} (hp : t.pbuf = Memory.write s.pbuf a v)
    (he : t.epoch = s.epoch) (b : Nat) : t.pbufByte b = if b = a then v else s.pbufByte b := by
  simp only [State.pbufByte, hp, he, Memory.read_write]
  split <;> rfl

theorem State.imgByte_write {s t : State} {a : Nat} {v : Byte} (hi : t.img = Memory.write s.img a v)
    (he : t.epoch = s.epoch) (b : Nat) : t.imgByte b = if b = a then v else s.imgByte b := by
  simp only [State.imgByte, hi, he, Memory.read_write]
  split <;> rfl

/-- Settles O10: the write is one `Memory.write`, and a read after it sees that byte alone. -/
theorem hostWritesStoreOneByte : Obligations.HostWritesStoreOneByte := by
  refine fun s rest a v ht hb => ⟨fun hm ha => ?_, fun hm ha => ?_⟩
  · exact ⟨_, (step_outsideMove ht hm nofun nofun).trans (hostWritePbuf_free (s := { s with moves := rest }) hb ha v),
      State.imgByte_congr rfl rfl, State.pbufByte_write rfl rfl⟩
  · exact ⟨_, (step_outsideMove ht hm nofun nofun).trans (hostWriteImg_free (s := { s with moves := rest }) hb ha v),
      State.pbufByte_congr rfl rfl, State.imgByte_write rfl rfl⟩

/-! ### ENV's moves on the wire (R91, R92, R95) -/

theorem State.running_of_held {s : State} (h : s.held = true) : s.seq.phase ≠ .idle := by
  intro hp
  simp [State.held, hp] at h

/-- With STP set the block lingers where it is idle and where it is held at a Start (R93). -/
theorem State.lingers_of_stp {s : State} (hs : s.bt.stp = true) (h : s.seq.phase = .idle ∨ s.held = true) :
    s.lingers = true := by
  rcases h with hp | hh
  · simp [State.lingers_of_idle hp, busHeld, hs]
  · rw [State.lingers_of_running (State.running_of_held hh), hh]

/-- Settles O11: the move is `stopComplete` under its guard, and with RefDev on the bus a lingering STOP is due. -/
theorem stopCompleteClearsStopAndBusy : Obligations.StopCompleteClearsStopAndBusy := by
  refine ⟨fun s rest ht hm => ?_, fun s hc hdev hstp hwhere => step_refDevDue hc ?_⟩
  · rw [step_outsideMove ht hm nofun nofun]
    rfl
  · simp [State.refDevDue, hdev, hstp, State.lingers_of_stp hstp hwhere]

theorem outsideMove_foreignBusy (s : State) :
    outsideMove .foreignBusy s =
      if s.bt.bb = false ∧ s.bt.stp = false ∧ s.inTransaction = false then .next (setBusy true s)
      else .refused .envMoveNotEnabled := by
  simp only [outsideMove, Bool.and_eq_true, Bool.not_eq_true', and_assoc]

theorem outsideMove_foreignIdle (s : State) :
    outsideMove .foreignIdle s =
      if s.bt.bb = true ∧ s.inTransaction = false then .next (setBusy false s)
      else .refused .envMoveNotEnabled := by
  simp only [outsideMove, Bool.and_eq_true, Bool.not_eq_true']

/-- Settles O12: each move is `setBusy` under its guard. -/
theorem foreignMastersMoveBusyOnly : Obligations.ForeignMastersMoveBusyOnly := by
  refine fun s rest ht => ⟨fun hm => ?_, fun hm => ?_⟩ <;> rw [step_outsideMove ht hm nofun nofun]
  · exact outsideMove_foreignBusy _
  · exact outsideMove_foreignIdle _

end Sys2Proof.Machine
end

section
/-! SUPPORT. Encodings: where a field of a descriptor stands, which row of the opcode map a descriptor selects, and the
bytes of a record. -/

namespace Sys2Proof

/-! ### Fields of a descriptor (R13) -/

theorem getLsbD_put {w : Nat} (x : BitVec w) (lo j : Nat) :
    (put x lo).getLsbD j = (decide (lo ≤ j ∧ j < 64) && x.getLsbD (j - lo)) := by
  by_cases hlo : lo ≤ j <;> by_cases hj : j < 64 <;> simp [put, hlo, hj]

/-- A field is read back from where it was put. -/
theorem field_put_same {w lo : Nat} (x : BitVec w) (h : lo + w ≤ 64) : field (put x lo) lo w = x := by
  ext j hj
  have hin : lo + j < 64 := by omega
  rw [BitVec.getElem_extractLsb', getLsbD_put]
  simp [hin, BitVec.getLsbD_eq_getElem hj]

/-- A field put elsewhere leaves zeros. -/
theorem field_put_disjoint {v w lo lo' : Nat} (x : BitVec v) (h : lo + w ≤ lo' ∨ lo' + v ≤ lo) :
    field (put x lo') lo w = 0#w := by
  ext j hj
  by_cases hlo : lo' ≤ lo + j
  · have hv : v ≤ lo + j - lo' := by omega
    simp [getLsbD_put, BitVec.getLsbD_of_ge _ _ hv]
  · simp [getLsbD_put, hlo]

/-- Operand bits stand where the mask of the row has zeros. -/
theorem put_and_eq_zero {w lo : Nat} (x : BitVec w) {m : Descriptor} (hm : field m lo w = 0) :
    put x lo &&& m = 0#64 := by
  ext j hj
  rw [BitVec.getElem_and, ← BitVec.getLsbD_eq_getElem, ← BitVec.getLsbD_eq_getElem, getLsbD_put]
  by_cases hlo : lo ≤ j
  · by_cases hw : j - lo < w
    · have hbit : (field m lo w).getLsbD (j - lo) = false := by rw [hm]; exact BitVec.getLsbD_zero
      rw [BitVec.getLsbD_extractLsb', Nat.add_sub_cancel' hlo, decide_eq_true hw, Bool.true_and] at hbit
      rw [hbit, Bool.and_false, BitVec.getElem_zero]
    · simp [BitVec.getLsbD_of_ge x _ (Nat.le_of_not_lt hw)]
  · simp [hlo]

/-- A field put back where it was read keeps its bits and no others. -/
theorem put_field (d : Descriptor) (lo w : Nat) : put (field d lo w) lo = d &&& put (BitVec.allOnes w) lo := by
  ext j hj
  rw [BitVec.getElem_and, ← BitVec.getLsbD_eq_getElem, ← BitVec.getLsbD_eq_getElem, ← BitVec.getLsbD_eq_getElem,
    getLsbD_put, getLsbD_put]
  by_cases hlo : lo ≤ j
  · simp [hlo, hj, Bool.and_comm]
  · simp [hlo]

/-- A descriptor is its bits under the mask and its bits beside it. -/
theorem or_and_of_mask {d m k k' c : Descriptor} (h : d &&& m = k) (hk : k' = k) (hc : c = ~~~ m) :
    k' ||| (d &&& c) = d := by
  subst hk hc h
  ext j hj
  simp only [BitVec.getElem_or, BitVec.getElem_and, BitVec.getElem_not]
  cases d[j] <;> cases m[j] <;> rfl

/-! ### The rows of the opcode map (R118) -/

/-- No two rows have the same opcode. -/
theorem rows_opcodes_nodup : (rows.map fun r => opcodeOf r.mtch).Nodup := by decide

/-- Every mask covers the opcode. -/
theorem opcodeOf_mask {r : Row} (hr : r ∈ rows) : opcodeOf r.mask = BitVec.allOnes 8 := by
  revert r
  decide

theorem opcodeOf_of_selects {r : Row} {d : Descriptor} (hr : r ∈ rows) (h : d &&& r.mask = r.mtch) :
    opcodeOf r.mtch = opcodeOf d := by
  calc opcodeOf r.mtch = opcodeOf (d &&& r.mask) := by rw [h]
    _ = opcodeOf d &&& opcodeOf r.mask := BitVec.extractLsb'_and
    _ = opcodeOf d := by rw [opcodeOf_mask hr, BitVec.and_allOnes]

/-- A descriptor selects at most one row (R118). -/
theorem row_unique {r₁ r₂ : Row} {d : Descriptor} (h₁ : r₁ ∈ rows) (h₂ : r₂ ∈ rows) (hs₁ : d &&& r₁.mask = r₁.mtch)
    (hs₂ : d &&& r₂.mask = r₂.mtch) : r₁ = r₂ :=
  List.inj_on_of_nodup_map rows_opcodes_nodup h₁ h₂
    ((opcodeOf_of_selects h₁ hs₁).trans (opcodeOf_of_selects h₂ hs₂).symm)

/-- What decodes was built by a row that the descriptor selects (R119). -/
theorem row_of_decodeDescriptor {d : Descriptor} {i : Instr} (h : decodeDescriptor d = .ok i) :
    ∃ r ∈ rows, d &&& r.mask = r.mtch ∧ r.build d = i := by
  unfold decodeDescriptor at h
  split at h
  · rename_i r hr
    have hs : r.selects d = true := List.find?_some (p := fun q : Row => q.selects d) hr
    exact ⟨r, List.mem_of_find?_eq_some hr, by simpa [Row.selects] using hs, Except.ok.inj h⟩
  · split at h <;> cases h

/-- A descriptor that selects a row decodes by it (R118, R119). -/
theorem decodeDescriptor_of_row {r : Row} {d : Descriptor} (hr : r ∈ rows) (h : d &&& r.mask = r.mtch) :
    decodeDescriptor d = .ok (r.build d) := by
  unfold decodeDescriptor
  cases hf : rows.find? (fun r => r.selects d) with
  | none => exact absurd (List.find?_eq_none.mp hf r hr) (by simp [Row.selects, h])
  | some q =>
    have hs : q.selects d = true := List.find?_some (p := fun q : Row => q.selects d) hf
    rw [row_unique hr (List.mem_of_find?_eq_some hf) h (by simpa [Row.selects] using hs)]

/-! ### Instructions and their words -/

/-- An instruction whose word selects a row that builds it decodes from that word. -/
theorem decode_encode_of_row {i : Instr} {d : Descriptor} (k : Nat) (hk : k < rows.length)
    (he : encode i = .descriptor d) (h : d &&& rows[k].mask = rows[k].mtch ∧ rows[k].build d = i) :
    decode (encode i) = .ok i := by
  obtain ⟨hs, hb⟩ := h
  rw [he, decode, decodeDescriptor_of_row (List.getElem_mem hk) hs, hb]

/-- The word of a command selects the command's row: beside the opcode its bits stand where the mask has zeros, and the
row reads each operand from where it was put. -/
theorem decode_encode_command {i : Instr} (hi : i.isCommand = true) : decode (encode i) = .ok i := by
  cases i
  case recData | recSpcInten => cases hi
  case init => exact decode_encode_of_row 0 (by decide) rfl (by decide)
  case setup => exact decode_encode_of_row 12 (by decide) rfl (by decide)
  case rdsmp => exact decode_encode_of_row 13 (by decide) rfl (by decide)
  case' wrb => refine decode_encode_of_row 1 (by decide) rfl ?_
  case' rdb => refine decode_encode_of_row 2 (by decide) rfl ?_
  case' rdbit => refine decode_encode_of_row 3 (by decide) rfl ?_
  case' wrbit => refine decode_encode_of_row 4 (by decide) rfl ?_
  case' wrbf => refine decode_encode_of_row 5 (by decide) rfl ?_
  case' dwb => refine decode_encode_of_row 6 (by decide) rfl ?_
  case' dwbf => refine decode_encode_of_row 7 (by decide) rfl ?_
  case' selbank => refine decode_encode_of_row 8 (by decide) rfl ?_
  case' setaddr => refine decode_encode_of_row 9 (by decide) rfl ?_
  case' upblk => refine decode_encode_of_row 10 (by decide) rfl ?_
  case' upimg => refine decode_encode_of_row 11 (by decide) rfl ?_
  case' rdavg => refine decode_encode_of_row 14 (by decide) rfl ?_
  all_goals
    simp only [rows, List.getElem_cons_succ, List.getElem_cons_zero]
    constructor
    · simp (disch := decide) only [BitVec.and_or_distrib_right, put_and_eq_zero, BitVec.or_zero]
      decide
    · simp (disch := omega) only [BitVec.extractLsb'_or, field_put_same, field_put_disjoint, BitVec.or_zero,
        BitVec.zero_or]

/-- A row builds the instruction whose word selects it: the operand fields are all the bits beside the mask. -/
theorem encode_build (d : Descriptor) :
    ∀ r ∈ rows, d &&& r.mask = r.mtch → encode (r.build d) = .descriptor d := by
  simp only [rows, List.forall_mem_cons]
  refine ⟨?init, ?wrb, ?rdb, ?rdbit, ?wrbit, ?wrbf, ?dwb, ?dwbf, ?selbank, ?setaddr, ?upblk, ?upimg, ?setup, ?rdsmp,
    ?rdavg, nofun⟩
  case init | setup | rdsmp => exact fun h => congrArg _ (h.symm.trans BitVec.and_allOnes)
  all_goals
    intro h
    simp only [encode, put_field, BitVec.or_assoc, ← BitVec.and_or_distrib_left]
    exact congrArg _ (or_and_of_mask h (by decide) (by decide))

/-! ### Image records (R123, R124) -/

theorem decodeRecord_data {bank offs len : Byte} {data : List Byte} (hl : len ≠ 0) (hd : data.length = len.toNat)
    (rest : List Byte) :
    decodeRecord (bank :: offs :: len :: (data ++ rest)) = .ok (.recData bank offs data, rest) := by
  have hn : ¬ (data ++ rest).length < data.length := by rw [List.length_append]; omega
  simp only [decodeRecord, if_neg hl, ← hd, if_neg hn, List.take_left, List.drop_left]

/-- What decodes as a record is the record's three header bytes, and its data or its opcode (R123, R124). -/
theorem decodeRecord_cases {bytes rest : List Byte} {i : Instr} (h : decodeRecord bytes = .ok (i, rest)) :
    (∃ bank offs, i = .recSpcInten bank offs ∧ bytes = bank :: offs :: 0 :: 1 :: rest) ∨
    ∃ bank offs len data, i = .recData bank offs data ∧ len ≠ 0 ∧ data.length = len.toNat ∧
      bytes = bank :: offs :: len :: (data ++ rest) := by
  unfold decodeRecord at h
  split at h
  · rename_i bank offs len tail
    split at h
    · subst len
      split at h
      · cases h
      · split at h <;> cases h
        subst_vars
        exact .inl ⟨bank, offs, rfl, rfl⟩
    · rename_i hl
      split at h <;> cases h
      rename_i hlen
      exact .inr ⟨bank, offs, len, tail.take len.toNat, rfl, hl, List.length_take_of_le (Nat.le_of_not_lt hlen), by
        rw [List.take_append_drop]⟩
  · cases h

theorem wellFormed_recData_iff (bank offs : Byte) (data : List Byte) :
    (Instr.recData bank offs data).wellFormed = true ↔ 1 ≤ data.length ∧ data.length ≤ 255 := by
  simp [Instr.wellFormed, dataNotEmpty, dataFitsLengthByte]

/-- The length byte of a well-formed data record is the number of its data bytes and not 0 (R123). -/
theorem lengthByte_of_wellFormed {bank offs : Byte} {data : List Byte}
    (h : (Instr.recData bank offs data).wellFormed = true) :
    BitVec.ofNat 8 data.length ≠ 0 ∧ data.length = (BitVec.ofNat 8 data.length).toNat := by
  rw [wellFormed_recData_iff] at h
  have hl : data.length = (BitVec.ofNat 8 data.length).toNat := by
    rw [BitVec.toNat_ofNat]
    omega
  refine ⟨fun h₀ => ?_, hl⟩
  rw [h₀, show (0 : Byte).toNat = 0 from rfl] at hl
  omega

/-- A record decodes from the head of what begins with its bytes (R123). -/
theorem decodeRecord_encode {i : Instr} {bytes : List Byte} (hi : i.wellFormed = true) (he : encode i = .record bytes)
    (rest : List Byte) : decodeRecord (bytes ++ rest) = .ok (i, rest) := by
  cases i
  case recData bank offs data =>
    obtain ⟨hz, hl⟩ := lengthByte_of_wellFormed hi
    cases he
    exact decodeRecord_data hz hl rest
  case recSpcInten bank offs => cases he; rfl
  all_goals cases he

theorem decode_encode_record {i : Instr} {bytes : List Byte} (hi : i.wellFormed = true)
    (he : encode i = .record bytes) : decode (encode i) = .ok i := by
  have hd := decodeRecord_encode hi he []
  rw [List.append_nil] at hd
  rw [he]
  simp only [decode, hd]

/-- A record is read from the bytes of its encoding (R210, R211). -/
theorem encode_of_decodeRecord {i : Instr} {bytes rest : List Byte} (h : decodeRecord bytes = .ok (i, rest)) :
    i.wellFormed = true ∧ ∃ b, encode i = .record b ∧ bytes = b ++ rest := by
  rcases decodeRecord_cases h with ⟨bank, offs, rfl, rfl⟩ | ⟨bank, offs, len, data, rfl, hl, hd, rfl⟩
  · exact ⟨rfl, _, rfl, rfl⟩
  · have hlen : BitVec.ofNat 8 data.length = len := by rw [hd, BitVec.ofNat_toNat, BitVec.setWidth_eq]
    have hpos : 1 ≤ len.toNat := Machine.toNat_pos_of_ne_zero hl
    have hmax : len.toNat < 256 := len.isLt
    exact ⟨(wellFormed_recData_iff _ _ _).mpr (by omega), _, rfl, by rw [hlen]; rfl⟩

/-! ### The statements -/

/-- Settles O1: a command's word selects its row, and a record's bytes are read as that record with none left. -/
theorem decodeEncodeAgree : Obligations.DecodeEncodeAgree := by
  intro i hi
  cases i
  case recData | recSpcInten => exact decode_encode_record hi rfl
  all_goals exact decode_encode_command rfl

/-- Settles O2: the row that a descriptor selects builds the command that the descriptor encodes. -/
theorem decodedDescriptorReencodes : Obligations.DecodedDescriptorReencodes := by
  intro d i h
  obtain ⟨r, hr, hs, rfl⟩ := row_of_decodeDescriptor h
  exact ⟨encode_build d r hr hs, Machine.row_build_isCommand hr d⟩

/-- Settles O3: decoding finds the one row that a descriptor selects. -/
theorem descriptorSelectsAtMostOneRow : Obligations.DescriptorSelectsAtMostOneRow := by
  refine fun d => ⟨⟨fun ⟨i, h⟩ => ?_, fun ⟨r, hr, h⟩ => ⟨_, decodeDescriptor_of_row hr h⟩⟩,
    fun r₁ h₁ r₂ h₂ hs₁ hs₂ => congrArg Row.mnemonic (row_unique h₁ h₂ hs₁ hs₂)⟩
  obtain ⟨r, hr, hs, -⟩ := row_of_decodeDescriptor h
  exact ⟨r, hr, hs⟩

/-- Settles O4: a record decodes at the head of its bytes, and from no others. -/
theorem recordDecodesAtHead : Obligations.RecordDecodesAtHead :=
  ⟨fun _ _ rest hi he => decodeRecord_encode hi he rest, fun _ _ _ => encode_of_decodeRecord⟩

/-- Settles O5: each word selects its row, or none, by evaluation. -/
theorem writtenOutWordsDecode : Obligations.WrittenOutWordsDecode := by
  unfold Obligations.WrittenOutWordsDecode
  decide

end Sys2Proof
end

section
/-! SUPPORT. Commands that are refused before any bus event: a descriptor that is no command (R119), and an operand that
is not legal (R121 (d)). -/

namespace Sys2Proof.Machine

/-! ### A descriptor that is no command -/

/-- An accepted command stands at no Start, so ENV has nothing to end (R93). -/
theorem lingers_of_accepted {s : State} (hp : accepted s) : s.lingers = false := by
  rw [accepted] at hp
  rw [State.lingers_of_running (by rw [hp]; nofun), State.held, hp]

theorem refDevDue_of_accepted {s : State} (hp : accepted s) : s.refDevDue = false := by
  rw [State.refDevDue, lingers_of_accepted hp, Bool.and_false]

theorem blockTurn_illegal {s : State} {e : DecodeError} (hp : accepted s) (hd : decodeDescriptor s.cmdr = .error e) :
    blockTurn s = .next (rejectCommand s) := by
  rw [accepted] at hp
  have hf : fetch s = none := by simp [fetch, hp, Phase.inImage, hd, Except.toOption]
  simp only [blockTurn, hp, hf]

/-- Settles O7: the turn of the block, which nothing precedes, rejects the command. -/
theorem illegalCommandEndsAtOnce : Obligations.IllegalCommandEndsAtOnce := by
  refine fun s e hc hp hd => ⟨fun hdue => ?_, fun rest hm => ?_⟩
  · rw [step_of_defaultDue hc hdue, lingers_of_accepted hp, if_neg (fun h => Bool.noConfusion h.1),
      blockTurn_illegal hp hd]
    rfl
  · rw [step_block ⟨hc, refDevDue_of_accepted hp⟩ hm, blockTurn_illegal (s := { s with moves := rest }) hp hd]
    rfl

/-! ### Operands that are not legal -/

theorem operandsLegal_wrbf (c : Cfg) (sa : BitVec 7) (reg : Byte) (start : BitVec 3) (width : BitVec 4) (value : Byte) :
    operandsLegal c (.wrbf sa reg start width value) = fieldLegal start width := by
  rw [operandsLegal, fieldLegal, Bool.eq_iff_iff]
  simp only [Bool.and_eq_true, decide_eq_true_eq]
  omega

theorem operandsLegal_upblk (c : Cfg) (v : BitVec 1) (bank : BitVec 5) (offs : Byte) (size src : BitVec 16) :
    operandsLegal c (.upblk v bank offs size src) =
      (insideImg c src.toNat size.toNat && insideDmem bank.toNat offs.toNat size.toNat) := rfl

theorem operandsLegal_rdb (c : Cfg) (sa : BitVec 7) (reg : Byte) (cnt : BitVec 16) :
    operandsLegal c (.rdb sa reg cnt) = false ↔ cnt = 0 ∨ c.pbufSize < cnt.toNat := by
  have hz : cnt.toNat = 0 ↔ cnt = 0 := BitVec.toNat_inj (y := 0#16)
  simp only [operandsLegal, Bool.and_eq_false_iff, decide_eq_false_iff_not, ← hz]
  omega

/-- The checks of a command come before everything else of it (R121 (d), R154, R155, R159, R203, R207, R250). -/
theorem acceptStep_illegal {i : Instr} {s : State} (h : operandsLegal s.cfg i = false) :
    acceptStep i s = s.fail .illegalOperand .ok := by
  cases i
  case wrb sa reg cnt => exact if_pos (by simpa [operandsLegal] using h)
  case rdb sa reg cnt => exact if_pos ((operandsLegal_rdb s.cfg sa reg cnt).mp h)
  case wrbf sa reg start width value =>
    rw [operandsLegal_wrbf] at h
    simp only [acceptStep, h, Bool.not_false, if_true]
  case dwbf reg start width value =>
    have hf : fieldLegal start width = false := (operandsLegal_wrbf s.cfg 0 reg start width value).symm.trans h
    simp only [acceptStep, hf, Bool.not_false, if_true]
  case upblk v bank offs size src =>
    rw [operandsLegal_upblk, Bool.and_eq_false_iff] at h
    rcases h with h | h <;> simp only [acceptStep, h, Bool.not_false, if_true, ite_self]
  case upimg v len src =>
    have hi : insideImg s.cfg src.toNat len.toNat = false := h
    simp only [acceptStep, hi, Bool.not_false, if_true]
  case rdavg n => exact if_pos (by simpa [operandsLegal] using h)
  all_goals cases h

/-- Settles O19: an accepted command fails its operand check first. -/
theorem illegalOperandsAreRefused : Obligations.IllegalOperandsAreRefused := by
  intro i s hp hi hl
  rw [exec_accepted hp hi, acceptStep_illegal hl]
  rfl

end Sys2Proof.Machine
end

section
/-! SUPPORT. A `BT_Write` as a command runs it (R152): its entry at the device address, the steps of a write that is
acknowledged throughout, and the three commands that are one such write (R181, R183, R184). -/

namespace Sys2Proof.Machine

/-! ### The entry of a transaction at the device address (R180) -/

theorem beginsDevWrite_beginWrite {s u : State} (hc : u.cfg = s.cfg) {data : List Byte} (hd : data.length < 2 ^ 16)
    (here : Site → XferAt → Phase) (k : Site) (reg : Byte) :
    beginsDevWrite here k reg data s (u.beginWrite u.cfg.dev.devaddr reg data (here k)) :=
  have hcnt : (BitVec.ofNat 16 data.length).toNat = data.length := BitVec.toNat_ofNat .. ▸ Nat.mod_eq_of_lt hd
  ⟨rfl, rfl, ⟨congrArg (·.dev.devaddr) hc, rfl, hcnt⟩, ⟨rfl, rfl⟩, rfl, rfl, rfl⟩

theorem traced.append {s t u : State} {es fs : List Event} (h : traced s es t) (k : traced t fs u) :
    traced s (es ++ fs) u := by
  rw [traced] at *
  rw [k, h, List.append_assoc]

/-! ### A write that is acknowledged -/

/-- `Start` of a write, acknowledged: the block is master and transmitter (R144). -/
theorem exec_write_start {i : Instr} {k : Site} (hi : i.isCommand = true) (hk : ownsSite i k = true) {s : State}
    {addrs : List Answer} (hp : s.seq.phase = .cmd k (.w .start)) (hf : busFree s) (ha : s.env.addr = .ack :: addrs) :
    ∃ e, EnvUsed s.env addrs s.env.tx s.env.rx s.env.ready e ∧
      exec i s = .next { s with
        bt := { s.bt with mst := true, trx := true, bb := true },
        trace := s.trace ++ [Event.start, Event.addr s.bt.sa .write .ack], env := e,
        seq := { s.seq with phase := .cmd k (.w .reg) } } := by
  obtain ⟨e, he, hs⟩ := State.start_ready (dir := .write) ha
  refine ⟨e, he, ?_⟩
  have hx : xferStep s (.w .start) = .go (.w .reg) (s.start .write).2 := by
    simp only [xferStep, writeStep, busHeld_of_busFree hf, Bool.false_eq_true, if_false, hs]
  rw [exec_cmd_go hi hk hp hx, hs]
  rfl

/-- The register byte of a write in repeat mode, acknowledged (R145, R152). -/
theorem exec_write_reg {i : Instr} {k : Site} (hi : i.isCommand = true) (hk : ownsSite i k = true) {s : State}
    {txs : List Answer} (hp : s.seq.phase = .cmd k (.w .reg)) (hm : s.bt.rm = true) (ht : s.env.tx = .ack :: txs) :
    ∃ e, EnvUsed s.env s.env.addr txs s.env.rx s.env.ready e ∧
      exec i s = .next { s with
        trace := s.trace ++ [Event.tx s.bt.rega .ack], env := e,
        seq := { s.seq with phase := .cmd k (.w .data) } } := by
  obtain ⟨e, he, hs⟩ := State.tx_ready (b := s.bt.rega) ht
  refine ⟨e, he, ?_⟩
  have hx : xferStep s (.w .reg) = .go (.w .data) (s.tx s.bt.rega).2 := by simp only [xferStep, writeStep, hs]
  rw [exec_cmd_go hi hk hp hx, hs]
  simp only [noteAnswer, countTx, hm, if_true]
  rfl

/-- The events of a `BT_Write` that is acknowledged throughout, before its STOP (R152). -/
def sentTrace (sa : BitVec 7) (reg : Byte) (data : List Byte) : List Event :=
  [Event.start, Event.addr sa .write .ack, Event.tx reg .ack] ++ data.map fun b => Event.tx b .ack

theorem sentTrace_stop (sa : BitVec 7) (reg : Byte) (data : List Byte) :
    sentTrace sa reg data ++ [Event.stop] = writeTrace sa reg data := rfl

/-- A write that is acknowledged throughout, from its Start to the step before its STOP: one step for the Start, one for
the register byte and one for each payload byte (R152). -/
theorem execTimes_write {i : Instr} {k : Site} (hi : i.isCommand = true) (hk : ownsSite i k = true) {s : State}
    {addrs txs : List Answer} (hp : s.seq.phase = .cmd k (.w .start)) (hf : busFree s) (hm : s.bt.rm = true)
    (ha : s.env.addr = .ack :: addrs) (ht : s.env.tx = .ack :: (List.replicate s.seq.txbuf.length .ack ++ txs)) :
    ∃ t, execTimes (2 + s.seq.txbuf.length) i s = .next t ∧ t.seq.phase = .cmd k (.w .data) ∧ t.seq.txbuf = [] ∧
      OnlyBus s t ∧ t.bt = { s.bt with mst := true, trx := true, bb := true } ∧
      traced s (sentTrace s.bt.sa s.bt.rega s.seq.txbuf) t := by
  obtain ⟨e₁, h₁, hs₁⟩ := exec_write_start hi hk hp hf ha
  obtain ⟨e₂, h₂, hs₂⟩ := exec_write_reg hi hk (s := { s with
    bt := { s.bt with mst := true, trx := true, bb := true },
    trace := s.trace ++ [Event.start, Event.addr s.bt.sa .write .ack], env := e₁,
    seq := { s.seq with phase := .cmd k (.w .reg) } }) rfl hm (h₁.tx.trans ht)
  obtain ⟨e₃, -, hs₃⟩ := exec_payload hi hk s.seq.txbuf [] { s with
    bt := { s.bt with mst := true, trx := true, bb := true },
    trace := s.trace ++ [Event.start, Event.addr s.bt.sa .write .ack] ++ [Event.tx s.bt.rega .ack], env := e₂,
    seq := { s.seq with phase := .cmd k (.w .data) } } txs rfl (List.append_nil _).symm hm h₂.tx
  rw [Nat.add_comm, execTimes_succ hs₁, execTimes_succ hs₂, hs₃]
  have htrace : s.trace ++ [Event.start, Event.addr s.bt.sa .write .ack] ++ [Event.tx s.bt.rega .ack] ++
      s.seq.txbuf.map (fun b => Event.tx b .ack) = s.trace ++ sentTrace s.bt.sa s.bt.rega s.seq.txbuf := by
    simp only [sentTrace, List.append_assoc, List.cons_append, List.nil_append]
  exact ⟨_, rfl, rfl, rfl, ⟨rfl, rfl, rfl, rfl, rfl, rfl, rfl, rfl, rfl, rfl, rfl, rfl, rfl, _, htrace⟩, rfl, htrace⟩

/-! ### DWB, SELBANK and SETADDR -/

section
variable {c : Cfg} {i : Instr} {reg v : Byte}

theorem isCommand_of_devWrite (h : devWriteOperands c i = some (reg, v)) : i.isCommand = true := by
  cases i
  case dwb | selbank | setaddr => rfl
  all_goals cases h

theorem ownsSite_of_devWrite (h : devWriteOperands c i = some (reg, v)) (k : Site) :
    ownsSite i k = (k == .devWrite) := by
  cases i
  case dwb | selbank | setaddr => rfl
  all_goals cases h

theorem cmdReply_of_devWrite (h : devWriteOperands c i = some (reg, v)) (d : Cfg) (k : Site) (r : Reply) (s : State) :
    cmdReply d i k r s = endWith r s := by
  cases i
  case dwb | selbank | setaddr => rfl
  all_goals cases h

theorem acceptStep_of_devWrite {s : State} (h : devWriteOperands s.cfg i = some (reg, v)) (hi : s.bt.initd = true) :
    acceptStep i s = s.beginDevWriteByte reg v (.cmd .devWrite) := by
  cases i
  case dwb | selbank | setaddr => cases h; exact if_pos hi
  all_goals cases h

end

/-- Each of the three commands with a free bus and its bytes acknowledged, from its acceptance to its end. -/
theorem devWrite_completes {i : Instr} {reg v : Byte} {s : State} (h : devWriteOperands s.cfg i = some (reg, v))
    {addrs txs : List Answer} (hp : accepted s) (hinit : s.bt.initd = true) (hf : busFree s)
    (ha : s.env.addr = .ack :: addrs) (ht : s.env.tx = .ack :: .ack :: txs) :
    ∃ t, execTimes 6 i s = .next t ∧ t.result = succeededWith false ∧ t.busy = false ∧
      t.bt = { busAfter s.bt s.cfg.dev.devaddr reg 1 with rm := true, retry := false } ∧
      traced s (writeTrace s.cfg.dev.devaddr reg [v]) t ∧ t.fp = s.fp := by
  have hi := isCommand_of_devWrite h
  have hk : ownsSite i .devWrite = true := ownsSite_of_devWrite h .devWrite
  have haccept := (exec_accepted hp hi).trans (congrArg _ (acceptStep_of_devWrite h hinit))
  obtain ⟨t, hwrite, hphase, hsent, hbus, hbt, htrace⟩ := execTimes_write hi hk
    (s := s.beginDevWriteByte reg v (.cmd .devWrite)) (txs := txs) rfl hf rfl ha ht
  have hstop := exec_cmd_done hi hk hphase (xferStep_sent hsent)
  rw [cmdReply_of_devWrite h] at hstop
  have hend := exec_ending (s := endWith (.ok []) t.stop) (e := .succeed false) rfl hi
  have hfp : t.fp = s.fp := hbus.fp
  refine ⟨(endWith (.ok []) t.stop).finish (.succeed false), ?_, rfl, rfl, ?_, ?_, hfp⟩
  · calc execTimes (5 + 1) i s = execTimes (3 + 2) i (s.beginDevWriteByte reg v (.cmd .devWrite)) :=
          execTimes_succ haccept
      _ = execTimes 2 i t := execTimes_add hwrite
      _ = .next ((endWith (.ok []) t.stop).finish (.succeed false)) := by
          rw [execTimes_succ hstop, execTimes_succ hend]; rfl
  · show stopModes t.bt = _
    rw [hbt]
    rfl
  · rw [← sentTrace_stop]
    exact htrace.append (u := t.stop) rfl

/-- Settles O33: the write that each of the three commands runs, acknowledged, refused once, and failed. -/
theorem deviceWritesComplete : Obligations.DeviceWritesComplete := by
  intro i reg v s h
  have hi := isCommand_of_devWrite h
  refine ⟨fun addrs txs hp hinit hf ha ht => devWrite_completes h hp hinit hf ha ht, fun hp hr => ?_,
    fun k x c ⟨hp, hk, hm, hx⟩ => ?_⟩
  · have hx : xferStep s (.w .nackStop) = .go (.w .start)
        { s.stop.clearNack with bt := writeAttempt { s.stop.clearNack.bt with retry := true } } := by
      simp [xferStep, writeStep, stopModes, hr]
    exact ⟨_, exec_cmd_go hi (ownsSite_of_devWrite h _) hp hx, rfl, rfl, rfl, rfl⟩
  · obtain ⟨t, ht, hbus, -⟩ := xferFails_done hx
    have hread : x ≠ .r .timeout := by
      rintro rfl
      rw [ownsSite_of_devWrite h, beq_iff_eq] at hk
      subst hk
      cases hm
    refine ⟨_, exec_cmd_done hi hk hp ht, ?_⟩
    rw [cmdReply_of_devWrite h]
    exact ⟨rfl, State.pbufByte_congr hbus.pbuf hbus.epoch, ((xferStep_done ht).2.2 hread).tmpb, hbus.fp, hbus.ae⟩

end Sys2Proof.Machine
end

section
/-! SUPPORT. A block upload chunk by chunk (R201, R202): what the head of the chunk loop begins, how a chunk that is
done advances the registers, and the step of whoever runs the upload, UPBLK or a data record. -/

namespace Sys2Proof.Machine

/-! ### The bank byte and the chunk length (R125, R201) -/

theorem bankByte_fields :
    ∀ (bank : BitVec 5) (pf ub : BitVec 1),
      (bankByte bank pf ub).extractLsb' 0 5 = bank ∧ (bankByte bank pf ub).extractLsb' 5 1 = ub ∧
      (bankByte bank pf ub).extractLsb' 6 1 = pf ∧ (bankByte bank pf ub).getLsbD 7 = false := by
  decide

/-- Settles O34: the fields of the bank byte, and the bounds of a chunk. -/
theorem bankByteAndChunkLength : Obligations.BankByteAndChunkLength := by
  refine ⟨bankByte_fields, fun chunk remain off hc hr ho => ⟨rfl, ?_⟩⟩
  obtain ⟨hpos, -, -, hbank⟩ := chunkLen_bounds hc hr (Nat.lt_succ_of_le ho)
  exact ⟨hpos, hbank⟩

/-- A chunk length fits its register where the chunk size is one of R312's. -/
theorem toNat_chunklen {chunk : Nat} (hc : chunk ≤ 256) (remain off : Nat) :
    (BitVec.ofNat 9 (chunkLen chunk remain off)).toNat = min chunk (min remain (256 - off)) := by
  rw [BitVec.toNat_ofNat, chunkLen, bankSize]
  omega

/-! ### The head of the chunk loop -/

theorem blockHead_last {here : Site → XferAt → Phase} {s : State} (h : s.fp.remain = 0) :
    blockHead here s = .ret none s := if_pos h

/-- With bytes remaining the chunk's length is computed and its bank select begins (R202). -/
theorem blockHead_begins (here : Site → XferAt → Phase) {s : State} (h : s.fp.remain ≠ 0) :
    ∃ t, blockHead here s = .run t ∧
      t.fp = { s.fp with chunklen := BitVec.ofNat 9 (chunkLen s.cfg.chunk s.fp.remain.toNat s.fp.curoff.toNat) } ∧
      t.trace = s.trace ∧ beginsDevWrite here .upSelect s.cfg.dev.raBankSel [bankByte s.fp.curbank 0 0] s t :=
  ⟨_, if_neg h, rfl, rfl, rfl, rfl, ⟨rfl, rfl, rfl⟩, ⟨rfl, rfl⟩, rfl, rfl, rfl⟩

/-- The registers as `UploadBlock` loads them (R202): the record cursor stays. -/
structure BlockLoaded (src : BitVec 17) (size : BitVec 16) (bank : BitVec 5) (off : Byte) (verify : Bool)
    (p q : ProgRegs) : Prop where
  curbank : q.curbank = bank
  curoff : q.curoff = off
  remain : q.remain = size
  srcptr : q.srcptr = src
  verify : q.verify = verify
  ipos : q.ipos = p.ipos
  iend : q.iend = p.iend

/-- The registers loaded from UPBLK's operands (R203). -/
theorem BlockLoaded.of_operands {src size : BitVec 16} {bank : BitVec 5} {off : Byte} {verify : Bool} {p q : ProgRegs}
    (h : BlockLoaded (src.setWidth 17) size bank off verify p q) :
    q.curbank = bank ∧ q.curoff = off ∧ q.remain = size ∧ q.srcptr.toNat = src.toNat ∧ q.verify = verify ∧
      q.ipos = p.ipos ∧ q.iend = p.iend := by
  refine ⟨h.curbank, h.curoff, h.remain, ?_, h.verify, h.ipos, h.iend⟩
  rw [h.srcptr]
  bv_omega

section
variable (here : Site → XferAt → Phase) (src : BitVec 17) {size : BitVec 16} (bank : BitVec 5) (off : Byte)
  (verify : Bool) (s : State)

/-- A block without bytes returns at once (R202). -/
theorem blockEnter_empty (h : size = 0) :
    ∃ t, blockEnter here src size bank off verify s = .ret none t ∧ t.trace = s.trace ∧
      BlockLoaded src size bank off verify s.fp t.fp :=
  ⟨_, if_pos h, rfl, rfl, rfl, rfl, rfl, rfl, rfl, rfl⟩

/-- A block with bytes begins the bank select of its first chunk (R202). -/
theorem blockEnter_begins (h : size ≠ 0) :
    ∃ t, blockEnter here src size bank off verify s = .run t ∧ t.trace = s.trace ∧
      BlockLoaded src size bank off verify s.fp t.fp ∧
      t.fp.chunklen = BitVec.ofNat 9 (chunkLen s.cfg.chunk size.toNat off.toNat) ∧
      beginsDevWrite here .upSelect s.cfg.dev.raBankSel [bankByte bank 0 0] s t :=
  ⟨_, if_neg h, rfl, ⟨rfl, rfl, rfl, rfl, rfl, rfl, rfl⟩, rfl, rfl, rfl, ⟨rfl, rfl, rfl⟩, ⟨rfl, rfl⟩, rfl, rfl, rfl⟩

end

/-! ### Past a chunk -/

section
variable {s : State}

/-- The registers past a chunk that lies inside its block and its bank (R202). -/
theorem chunkDone_advances (hc : cfgLegal s.cfg = true) (h : chunkInv s) :
    (chunkDone s.fp).srcptr.toNat = s.fp.srcptr.toNat + s.fp.chunklen.toNat ∧
    (chunkDone s.fp).remain.toNat + s.fp.chunklen.toNat = s.fp.remain.toNat ∧
    (chunkDone s.fp).curoff.toNat = (s.fp.curoff.toNat + s.fp.chunklen.toNat) % 256 := by
  have hsize := (cfgLegal_img hc).2
  obtain ⟨-, hremain, -, hbank, -, himg⟩ := h
  rw [bankSize] at hbank
  refine ⟨?_, ?_, ?_⟩ <;> simp only [chunkDone] <;> bv_omega

theorem chunkDone_curbank_last (h : (chunkDone s.fp).remain = 0) : (chunkDone s.fp).curbank = s.fp.curbank :=
  if_neg fun hn => hn.2 h

/-- The bank steps exactly where the offset wraps and bytes remain, so the linear address goes on (R81, R204). -/
theorem chunkDone_linearAddr (h : chunkInv s) (hr : (chunkDone s.fp).remain ≠ 0) :
    linearAddr (chunkDone s.fp).curbank.toNat (chunkDone s.fp).curoff.toNat =
      linearAddr s.fp.curbank.toNat s.fp.curoff.toNat + s.fp.chunklen.toNat := by
  obtain ⟨hpos, hremain, -, hbank, hdmem, -⟩ := h
  simp only [linearAddr, bankCount, bankSize, Nat.reduceMul] at hbank hdmem
  simp only [chunkDone] at hr
  simp only [linearAddr, bankSize, chunkDone]
  by_cases hoff : s.fp.curoff + s.fp.chunklen.setWidth 8 = 0
  · have hleft : s.fp.chunklen.toNat < s.fp.remain.toNat := by bv_omega
    have hfull : s.fp.curoff.toNat + s.fp.chunklen.toNat = 256 := by bv_omega
    have hbank' : (s.fp.curbank + 1).toNat = s.fp.curbank.toNat + 1 := by bv_omega
    rw [if_pos ⟨hoff, hr⟩, hoff, hbank', show (0 : Byte).toNat = 0 from rfl]
    omega
  · rw [if_neg fun hn => hoff hn.1]
    bv_omega

theorem blockNext_last {here : Site → XferAt → Phase} (h : (chunkDone s.fp).remain = 0) :
    blockNext here s = .ret none { s with fp := chunkDone s.fp } :=
  blockHead_last (s := { s with fp := chunkDone s.fp }) h

theorem blockNext_begins (here : Site → XferAt → Phase) (h : (chunkDone s.fp).remain ≠ 0) :
    ∃ t, blockNext here s = .run t ∧
      t.fp = { chunkDone s.fp with
        chunklen := BitVec.ofNat 9
          (chunkLen s.cfg.chunk (chunkDone s.fp).remain.toNat (chunkDone s.fp).curoff.toNat) } ∧
      t.trace = s.trace ∧
      beginsDevWrite here .upSelect s.cfg.dev.raBankSel [bankByte (chunkDone s.fp).curbank 0 0] s t :=
  blockHead_begins here (s := { s with fp := chunkDone s.fp }) h

end

/-! ### Who runs an upload -/

/-- UPBLK runs a block upload as a command, and a data record runs one inside an image (R203, R208). -/
def runsUpload (i : Instr) (here : Site → XferAt → Phase) : Prop :=
  ((∃ v b o n p, i = .upblk v b o n p) ∧ here = .cmd) ∨ ((∃ b o d, i = .recData b o d) ∧ here = .record)

/-- What the instruction that runs an upload does with its return value (R203, R208). -/
def uploadEnd : Instr → Option Code → State → State
  | .recData _ _ data => recordEnd (3 + data.length)
  | _ => endUpload .fwUploadFailed

/-- The STOP of a chunk's last transaction has been requested, and VBUF holds these bytes (R202). -/
def State.chunkStopped (s : State) (vbuf : List Byte) : State := { s.stop with fp := { s.fp with vbuf := vbuf } }

/-- From `s` to `t` a chunk has been uploaded, with these bytes in VBUF: the registers have advanced, and the next
chunk's bank select begins, or the upload has returned to whoever runs it (R202, R203, R208). -/
structure ChunkUploaded (i : Instr) (here : Site → XferAt → Phase) (vbuf : List Byte) (s t : State) : Prop where
  stop : stopRequested s t
  srcptr : t.fp.srcptr.toNat = s.fp.srcptr.toNat + s.fp.chunklen.toNat
  remain : t.fp.remain.toNat + s.fp.chunklen.toNat = s.fp.remain.toNat
  curoff : t.fp.curoff.toNat = (s.fp.curoff.toNat + s.fp.chunklen.toNat) % 256
  verify : t.fp.verify = s.fp.verify
  vbuf : t.fp.vbuf = vbuf
  last : t.fp.remain = 0 → t.fp.curbank = s.fp.curbank ∧
    (here = .cmd → t.seq.phase = .ending (.succeed false) ∧ t.fp.ipos = s.fp.ipos) ∧
    ∀ b o d, i = .recData b o d →
      t.seq.phase = .image ∧ t.fp.ipos = s.fp.ipos + BitVec.ofNat 17 (3 + d.length)
  more : t.fp.remain ≠ 0 → t.fp.ipos = s.fp.ipos ∧
    linearAddr t.fp.curbank.toNat t.fp.curoff.toNat =
      linearAddr s.fp.curbank.toNat s.fp.curoff.toNat + s.fp.chunklen.toNat ∧
    t.fp.chunklen.toNat = min s.cfg.chunk (min t.fp.remain.toNat (256 - t.fp.curoff.toNat)) ∧
    beginsDevWrite here .upSelect s.cfg.dev.raBankSel [bankByte t.fp.curbank 0 0] s t

section
variable {i : Instr} {here : Site → XferAt → Phase} {s : State}

theorem exec_upload_done {k : Site} {x : XferAt} {r : Reply} {u : State} (h : runsUpload i here)
    (hk : k.ofUpload = true) (hp : s.seq.phase = here k x) (hx : xferStep s x = .done r u) :
    exec i s = .next ((blockReply here k r u).elim (uploadEnd i)) := by
  rcases h with ⟨⟨v, b, o, n, p, rfl⟩, rfl⟩ | ⟨⟨b, o, d, rfl⟩, rfl⟩
  · exact (exec_cmd (i := .upblk v b o n p) hp rfl hk).trans (congrArg _ (State.xfer_done hx))
  · exact (exec_record (i := .recData b o d) hp rfl hk).trans (congrArg _ (State.xfer_done hx))

/-- The last reply of a chunk that is not verified, or that has been read back equal, is the next round of the loop. -/
theorem exec_chunk_stopped (h : runsUpload i here)
    (hdone : s.seq.phase = here .upData (.w .data) ∧ s.seq.txbuf = [] ∧ s.fp.verify = false ∨
      s.seq.phase = here .upVRead (.r .stop2) ∧ s.seq.rbuf = s.imgBytes s.fp.srcptr.toNat s.fp.chunklen.toNat) :
    ∃ vbuf, exec i s = .next ((blockNext here (s.chunkStopped vbuf)).elim (uploadEnd i)) ∧
      (s.seq.phase = here .upData (.w .data) → vbuf = s.fp.vbuf) ∧
      (s.seq.phase = here .upVRead (.r .stop2) → vbuf = s.seq.rbuf ++ s.fp.vbuf.drop s.seq.rbuf.length) := by
  have hne : here .upData (.w .data) ≠ here .upVRead (.r .stop2) := by
    rcases h with ⟨-, rfl⟩ | ⟨-, rfl⟩ <;> nofun
  rcases hdone with ⟨hp, hsent, hv⟩ | ⟨hp, hread⟩
  · refine ⟨s.fp.vbuf, ?_, fun _ => rfl, fun hr => absurd (hp.symm.trans hr) hne⟩
    rw [exec_upload_done h rfl hp (xferStep_sent hsent)]
    exact congrArg (fun p => Host.Outcome.next (ProcNext.elim p (uploadEnd i)))
      (if_neg (show ¬ s.fp.verify = true by simp [hv]))
  · refine ⟨storeVbuf s.seq.rbuf s.fp.vbuf, ?_, fun hr => absurd (hr.symm.trans hp) hne, fun _ => rfl⟩
    rw [exec_upload_done h rfl hp (xferStep_stop2 rfl)]
    exact congrArg (fun p => Host.Outcome.next (ProcNext.elim p (uploadEnd i))) (if_pos hread)

theorem chunkStopped_uploaded_last (h : runsUpload i here) (hc : cfgLegal s.cfg = true) (hinv : chunkInv s)
    (vbuf : List Byte) (hr : (chunkDone s.fp).remain = 0) :
    ChunkUploaded i here vbuf s ((blockNext here (s.chunkStopped vbuf)).elim (uploadEnd i)) := by
  obtain ⟨hsrc, hrem, hoff⟩ := chunkDone_advances hc hinv
  have hnext : blockNext here (s.chunkStopped vbuf) = _ := blockNext_last hr
  rw [hnext]
  rcases h with ⟨⟨v, b, o, n, p, rfl⟩, rfl⟩ | ⟨⟨b, o, d, rfl⟩, rfl⟩
  · exact ⟨stopRequested_stop s, hsrc, hrem, hoff, rfl, rfl,
      fun _ => ⟨chunkDone_curbank_last hr, fun _ => ⟨rfl, rfl⟩, nofun⟩, fun hn => absurd hr hn⟩
  · exact ⟨stopRequested_stop s, hsrc, hrem, hoff, rfl, rfl,
      fun _ => ⟨chunkDone_curbank_last hr, fun he => (nomatch congrFun₂ he .upData (.w .data)),
        fun b o d hi => by cases hi; exact ⟨rfl, rfl⟩⟩, fun hn => absurd hr hn⟩

theorem chunkStopped_uploaded_more (hc : cfgLegal s.cfg = true) (hinv : chunkInv s)
    (vbuf : List Byte) (hr : (chunkDone s.fp).remain ≠ 0) :
    ChunkUploaded i here vbuf s ((blockNext here (s.chunkStopped vbuf)).elim (uploadEnd i)) := by
  obtain ⟨hsrc, hrem, hoff⟩ := chunkDone_advances hc hinv
  have hq := blockNext_quiet here (s.chunkStopped vbuf)
  obtain ⟨t, hnext, hfp, -, hbegins⟩ := blockNext_begins here (s := s.chunkStopped vbuf) hr
  rw [hnext] at hq
  rw [hnext]
  show ChunkUploaded i here vbuf s t
  refine ⟨hq.stopRequested (stopRequested_stop s), ?_, ?_, ?_, ?_, ?_, fun hz => ?_, fun _ => ⟨?_, ?_, ?_, ?_⟩⟩
  all_goals rw [hfp]
  · exact hsrc
  · exact hrem
  · exact hoff
  · rfl
  · rfl
  · rw [hfp] at hz; exact absurd hz hr
  · rfl
  · exact chunkDone_linearAddr hinv hr
  · exact toNat_chunklen (cfgLegal_chunk hc).2 _ _
  · exact hbegins

theorem chunkStopped_uploaded (h : runsUpload i here) (hc : cfgLegal s.cfg = true) (hinv : chunkInv s)
    (vbuf : List Byte) :
    ChunkUploaded i here vbuf s ((blockNext here (s.chunkStopped vbuf)).elim (uploadEnd i)) := by
  by_cases hr : (chunkDone s.fp).remain = 0
  · exact chunkStopped_uploaded_last h hc hinv vbuf hr
  · exact chunkStopped_uploaded_more hc hinv vbuf hr

/-- After each write of a chunk but its last the next write begins: the start address, the data, and for a read-back the
bank select and the start address again (R202). -/
theorem blockReply_begins (here : Site → XferAt → Phase) {k k' : Site} {reg : Byte} {data : List Byte}
    (h : k = .upSelect ∧ k' = .upAddr ∧ reg = s.cfg.dev.raMemStartAddr ∧ data = [s.fp.curoff] ∨
      k = .upAddr ∧ k' = .upData ∧ reg = s.cfg.dev.raMemRW ∧
        data = s.imgBytes s.fp.srcptr.toNat s.fp.chunklen.toNat ∨
      k = .upData ∧ s.fp.verify = true ∧ k' = .upVSelect ∧ reg = s.cfg.dev.raBankSel ∧
        data = [bankByte s.fp.curbank 0 0] ∨
      k = .upVSelect ∧ k' = .upVAddr ∧ reg = s.cfg.dev.raMemStartAddr ∧ data = [s.fp.curoff]) :
    k.ofUpload = true ∧
      blockReply here k (.ok []) s.stop = .run (s.stop.beginWrite s.cfg.dev.devaddr reg data (here k')) ∧
      data.length < 2 ^ 16 := by
  rcases h with ⟨rfl, rfl, rfl, rfl⟩ | ⟨rfl, rfl, rfl, rfl⟩ | ⟨rfl, hv, rfl, rfl, rfl⟩ | ⟨rfl, rfl, rfl, rfl⟩
  · exact ⟨rfl, rfl, by simp⟩
  · refine ⟨rfl, rfl, ?_⟩
    rw [State.length_imgBytes]
    exact s.fp.chunklen.isLt.trans (by decide)
  · exact ⟨rfl, if_pos hv, by simp⟩
  · exact ⟨rfl, rfl, by simp⟩

end

/-! ### UPBLK (R203) -/

theorem acceptStep_upblk_legal {v : BitVec 1} {bank : BitVec 5} {offs : Byte} {size src : BitVec 16} {s : State}
    (hi : s.bt.initd = true) (hl : operandsLegal s.cfg (.upblk v bank offs size src) = true) :
    acceptStep (.upblk v bank offs size src) s =
      (blockEnter .cmd (src.setWidth 17) size bank offs (v == 1) s).elim (endUpload .fwUploadFailed) := by
  rw [operandsLegal_upblk, Bool.and_eq_true] at hl
  obtain ⟨himg, hdmem⟩ := hl
  simp only [acceptStep, himg, hdmem, Bool.not_true, Bool.false_eq_true, if_false, State.ifInitd, hi, if_true]

/-! ### A data record (R208) -/

section
variable {bank offs : Byte} {data : List Byte} {s : State}

theorem insideDmem_iff (bank off size : Nat) : insideDmem bank off size = true ↔ bank * 256 + off + size ≤ 8192 :=
  decide_eq_true_iff

theorem imageStep_recData_illegal (h : 31 < bank.toNat ∨ 8192 < bank.toNat * 256 + offs.toNat + data.length) :
    imageStep (.recData bank offs data) s = s.goto (.imageDone (some .illegalOperand)) := by
  refine if_pos (h.imp_right fun hsize => ?_)
  rw [Bool.not_eq_true', Bool.eq_false_iff, Ne, insideDmem_iff]
  omega

theorem imageStep_recData_legal (hb : bank.toNat ≤ 31) (hd : bank.toNat * 256 + offs.toNat + data.length ≤ 8192) :
    imageStep (.recData bank offs data) s =
      (blockEnter .record (s.fp.ipos + 3) (BitVec.ofNat 16 data.length) (bank.setWidth 5) offs s.seq.imgVerify
        s).elim (recordEnd (3 + data.length)) := by
  refine if_neg (not_or.mpr ⟨Nat.not_lt.mpr hb, ?_⟩)
  rw [Bool.not_eq_true', (insideDmem_iff _ _ _).mpr hd]
  nofun

end

/-! ### The statements -/

/-- Settles O35: UPBLK loads the registers and enters the chunk loop. -/
theorem upblkEntersItsFirstChunk : Obligations.UpblkEntersItsFirstChunk := by
  intro v bank offs size src s hp hinit hl
  refine ⟨_, (exec_accepted hp rfl).trans (congrArg _ (acceptStep_upblk_legal hinit hl)), ?_⟩
  by_cases hz : size = 0
  · obtain ⟨t, henter, htrace, hload⟩ := blockEnter_empty .cmd (src.setWidth 17) bank offs (v == 1) s hz
    rw [henter]
    exact ⟨htrace, hload.of_operands, fun _ => rfl, fun hn => absurd hz hn⟩
  · obtain ⟨t, henter, htrace, hload, hlen, hbegins⟩ :=
      blockEnter_begins .cmd (src.setWidth 17) bank offs (v == 1) s hz
    rw [henter]
    exact ⟨htrace, hload.of_operands, fun h => absurd h hz, fun _ _ hc => ⟨hlen ▸ toNat_chunklen hc _ _, hbegins⟩⟩

/-- Settles O36: each reply of a chunk begins the next transaction, and the last one the next round of the loop. -/
theorem upblkAdvancesChunkByChunk : Obligations.UpblkAdvancesChunkByChunk := by
  intro i here s h hinv hc
  refine ⟨fun k k' reg data hp hsent hcase => ?_, fun hp hsent => ?_, fun hdone => ?_⟩
  · obtain ⟨hk, hrun, hdata⟩ := blockReply_begins here (s := s) hcase
    refine ⟨_, exec_upload_done h hk hp (xferStep_sent hsent), ?_⟩
    rw [hrun]
    exact ⟨stopRequested_stop s, rfl, beginsDevWrite_beginWrite (u := s.stop) rfl hdata here k' reg⟩
  · have hlen : (s.fp.chunklen.setWidth 16).toNat = s.fp.chunklen.toNat := by bv_omega
    exact ⟨_, exec_upload_done h rfl hp (xferStep_sent hsent), stopRequested_stop s, rfl, rfl, rfl, ⟨rfl, rfl, hlen⟩,
      ⟨rfl, rfl⟩, rfl, rfl, rfl⟩
  · obtain ⟨vbuf, hexec, hwritten, hread⟩ := exec_chunk_stopped h hdone
    have hup := chunkStopped_uploaded h hc hinv vbuf
    exact ⟨_, hexec, hup.stop, hup.srcptr, hup.remain, hup.curoff, hup.verify, fun hp => hup.vbuf.trans (hwritten hp),
      fun hp => hup.vbuf.trans (hread hp), hup.last, hup.more⟩

/-- Settles O40: a data record is a block upload from behind its header, where its extent is legal. -/
theorem recDataUploadsItsBlock : Obligations.RecDataUploadsItsBlock := by
  intro bank offs data s
  refine ⟨fun hp hpos hmax => ⟨fun hbad => ?_, fun hbank hdmem => ?_⟩, fun hp hsent hv hlen => ?_⟩
  · rw [exec_image hp (.inr rfl), imageStep_recData_illegal hbad]
  · have hsize : (BitVec.ofNat 16 data.length).toNat = data.length := by rw [BitVec.toNat_ofNat]; omega
    have hne : BitVec.ofNat 16 data.length ≠ 0 := fun hz => by
      rw [hz, show (0 : BitVec 16).toNat = 0 from rfl] at hsize
      omega
    obtain ⟨t, henter, htrace, hload, hchunk, hbegins⟩ :=
      blockEnter_begins .record (s.fp.ipos + 3) (bank.setWidth 5) offs s.seq.imgVerify s hne
    refine ⟨t, ?_, hload.srcptr, hload.remain ▸ hsize, ?_, hload.curoff, hload.verify, hload.ipos, htrace, hbegins,
      fun _ hc => ?_⟩
    · rw [exec_image hp (.inr rfl), imageStep_recData_legal hbank hdmem, henter]
      rfl
    · rw [hload.curbank]
      bv_omega
    · rw [hchunk, toNat_chunklen hc, hsize]
  · have hrun : runsUpload (.recData bank offs data) .record := .inr ⟨⟨_, _, _, rfl⟩, rfl⟩
    have hlast : (chunkDone s.fp).remain = 0 := by
      simp only [chunkDone]
      bv_omega
    have hnext : blockNext .record s.stop = _ := blockNext_last hlast
    have hreply : blockReply .record .upData (.ok []) s.stop = blockNext .record s.stop :=
      if_neg (show ¬ s.fp.verify = true by simp [hv])
    refine ⟨_, exec_upload_done hrun rfl hp (xferStep_sent hsent), ?_⟩
    rw [hreply, hnext]
    exact ⟨rfl, hlast, rfl, stopRequested_stop s⟩

end Sys2Proof.Machine
end

section
/-! SUPPORT. A run of an instruction as the bus sees it: what one primitive makes of the registers, the buffers and
ENV's answers, and how such steps join to a whole transaction and to the end of a command (R152, R153, R275, R276). -/

namespace Sys2Proof.Machine

/-! ### What the bus sees of a state -/

/-- The parts of a state that a transaction reads and writes, with the answers that ENV has ready. RefDev is left out:
it is not asked while an answer is ready (R95). -/
structure BusView where
  cfg : Cfg
  bt : BusRegs
  seq : Seq
  env : Env

def State.view (s : State) : BusView := ⟨s.cfg, s.bt, s.seq, { s.env with dev := none }⟩

/-- The bus side in another command phase. -/
def BusView.goto (v : BusView) (p : Phase) : BusView := { v with seq := { v.seq with phase := p } }

/-- The bus side after ENV's StopComplete (R91). -/
def BusView.stopComplete (v : BusView) : BusView := { v with bt := stopCompleteFlags v.bt }

theorem State.view_stopComplete (s : State) : (stopComplete s).view = s.view.stopComplete := rfl

theorem EnvUsed.view {e f : Env} {addrs txs : List Answer} {rxs : List Byte} {rdys : List Bool}
    (h : EnvUsed e addrs txs rxs rdys f) :
    { f with dev := none } = { e with addr := addrs, tx := txs, rx := rxs, ready := rdys, dev := none } := by
  obtain ⟨rfl, rfl, rfl, rfl, hd, hr⟩ := h
  rw [← hd, ← hr]

/-! ### Runs -/

/-- From `s` to `t` only the bus side has moved, with exactly these bus events. -/
structure Moves (es : List Event) (s t : State) : Prop where
  bus : OnlyBus s t
  traced : traced s es t

theorem Moves.trans {s t u : State} {es fs : List Event} (h : Moves es s t) (k : Moves fs t u) :
    Moves (es ++ fs) s u :=
  ⟨h.bus.trans k.bus, h.traced.append k.traced⟩

theorem Moves.stopComplete {s t : State} {es : List Event} (h : Moves es s t) : Moves es s (Machine.stopComplete t) :=
  ⟨h.bus.trans ⟨rfl, rfl, rfl, rfl, rfl, rfl, rfl, rfl, rfl, rfl, rfl, rfl, rfl, [], (List.append_nil _).symm⟩,
    h.traced⟩

/-- `n` steps of an instruction from `s` move the bus side to `v`, with exactly these bus events. -/
def Reaches (i : Instr) (n : Nat) (es : List Event) (s : State) (v : BusView) : Prop :=
  ∃ t, execTimes n i s = .next t ∧ Moves es s t ∧ t.view = v

/-- `n` steps of an instruction take every state whose bus side is `v` to bus side `w`, with exactly these bus
events. -/
def Leads (i : Instr) (n : Nat) (es : List Event) (v w : BusView) : Prop := ∀ s, s.view = v → Reaches i n es s w

/-- From `s` to `t` a command has ended with this result and these bus registers, after these bus events; nothing above
the bus side has changed but RESULT and BUSY. -/
structure Ended (r : Result) (b : BusRegs) (es : List Event) (s t : State) : Prop where
  bus : OnlyBus { s with result := r, busy := false } t
  idle : t.seq.phase = .idle
  bt : t.bt = b
  traced : traced s es t

theorem Moves.ended {s t u : State} {es fs : List Event} {r : Result} {b : BusRegs} (h : Moves es s t)
    (k : Ended r b fs t u) : Ended r b (es ++ fs) s u := by
  have hb := h.bus
  have kb := k.bus
  exact ⟨⟨kb.cfg.trans hb.cfg, kb.cmdr.trans hb.cmdr, kb.busy, kb.result, kb.fp.trans hb.fp, kb.ae.trans hb.ae,
    kb.smpStatus.trans hb.smpStatus, kb.smp.trans hb.smp, kb.pbuf.trans hb.pbuf, kb.img.trans hb.img,
    kb.epoch.trans hb.epoch, kb.moves.trans hb.moves, kb.imgVerify.trans hb.imgVerify, es ++ fs,
    h.traced.append k.traced⟩, k.idle, k.bt, h.traced.append k.traced⟩

/-- `n` steps of a command from every state whose bus side is `v` end it so. -/
def Ends (i : Instr) (n : Nat) (es : List Event) (v : BusView) (r : Result) (b : BusRegs) : Prop :=
  ∀ s, s.view = v → ∃ t, execTimes n i s = .next t ∧ Ended r b es s t

section
variable {i : Instr} {m n : Nat} {es fs : List Event} {s : State} {u v w : BusView} {r : Result} {b : BusRegs}

theorem Reaches.trans (h : Reaches i m es s v) (k : Leads i n fs v w) : Reaches i (m + n) (es ++ fs) s w := by
  obtain ⟨t, ht, hm, hv⟩ := h
  obtain ⟨t', ht', hm', hw⟩ := k t hv
  exact ⟨t', (execTimes_add ht).trans ht', hm.trans hm', hw⟩

theorem Leads.trans (h : Leads i m es u v) (k : Leads i n fs v w) : Leads i (m + n) (es ++ fs) u w :=
  fun s hs => (h s hs).trans k

theorem Reaches.ends (h : Reaches i m es s v) (k : Ends i n fs v r b) :
    ∃ t, execTimes (m + n) i s = .next t ∧ Ended r b (es ++ fs) s t := by
  obtain ⟨t, ht, hm, hv⟩ := h
  obtain ⟨t', ht', he⟩ := k t hv
  exact ⟨t', (execTimes_add ht).trans ht', hm.ended he⟩

theorem Leads.ends (h : Leads i m es u v) (k : Ends i n fs v r b) : Ends i (m + n) (es ++ fs) u r b :=
  fun s hs => (h s hs).ends k

/-- A run up to a pending STOP, ENV's StopComplete, and the run from there to the command's end. -/
theorem Reaches.stopped_ends (h : Reaches i m es s v) (k : Ends i n fs v.stopComplete r b) :
    ∃ t u, execTimes m i s = .next t ∧ t.view = v ∧ execTimes n i (stopComplete t) = .next u ∧
      Ended r b (es ++ fs) s u := by
  obtain ⟨t, ht, hm, hv⟩ := h
  obtain ⟨u, hu, he⟩ := k (stopComplete t) (by rw [State.view_stopComplete, hv])
  exact ⟨t, u, ht, hv, hu, hm.stopComplete.ended he⟩

end

/-! ### One primitive -/

/-- From every state whose bus side is `v`, the primitive at `x` comes to `out` of a state whose bus side is `w`, with
exactly these bus events. -/
def Does (x : XferAt) (out : State → XferNext) (es : List Event) (v w : BusView) : Prop :=
  ∀ s, s.view = v → ∃ t, xferStep s x = out t ∧ traced s es t ∧ t.view = w

/-- Where a procedure goes on after a START or a transmitted byte (R152, R153). -/
def XferAt.next : Answer → XferAt → XferAt
  | .nack, .w .data => .w .payloadStop
  | .nack, .w _ => .w .nackStop
  | .nack, .r _ => .r .nackStop
  | _, .w .start => .w .reg
  | _, .w _ => .w .data
  | _, .r .start1 => .r .reg
  | _, .r .reg => .r .poll
  | _, .r _ => .r .rx

/-- What a START or a transmitted byte comes to by its answer: a lost arbitration ends the procedure (R147). -/
def XferAt.answered (x : XferAt) (a : Answer) (s : State) : XferNext :=
  match a with
  | .arblost => .done (.fail .arbLost) s
  | a => .go (x.next a) s

/-- What an answer makes of the bus registers; after a lost arbitration the receiver is the idle mode again (R147). -/
def answerRegs (a : Answer) (b : BusRegs) : BusRegs :=
  match a with
  | .arblost => { noteAnswer .arblost b with trx := false }
  | a => noteAnswer a b

section
variable {v : BusView} {x : XferAt} {a : Answer} {rest : List Answer}

/-- A START with an answer ready (R144). -/
theorem does_start (hx : x.atStart = true) (hf : busHeld v.bt = false) (ha : v.env.addr = a :: rest) :
    Does x (x.answered a) [.start, .addr v.bt.sa x.dir a] v
      { v with bt := answerRegs a (startModes x.dir v.bt), env := { v.env with addr := rest } } := by
  rintro s rfl
  obtain ⟨e, he, hs⟩ := State.start_ready (s := s) (dir := x.dir) ha
  have hv := he.view
  rcases x with (_ | _ | _ | _ | _) | (_ | _ | _ | _ | _ | _ | _ | _ | _)
  case w.start | r.start1 | r.start2 =>
    simp only [XferAt.dir, XferAt.r.injEq, reduceCtorEq, if_true, if_false] at hs
    replace hf : busHeld s.bt = false := hf
    simp only [xferStep, writeStep, readStep, hf, hs, Bool.false_eq_true, if_false]
    cases a <;> exact ⟨_, rfl, rfl, congrArg (BusView.mk s.cfg _ s.seq) hv⟩
  all_goals cases hx

/-- The register byte with an answer ready (R145). -/
theorem does_reg (hx : x = .w .reg ∨ x = .r .reg) (ha : v.env.tx = a :: rest) :
    Does x (x.answered a) [.tx v.bt.rega a] v
      { v with bt := answerRegs a (countTx v.bt), env := { v.env with tx := rest } } := by
  rintro s rfl
  obtain ⟨e, he, hs⟩ := State.tx_ready (s := s) (b := s.bt.rega) ha
  have hv := he.view
  rcases hx with rfl | rfl <;> simp only [xferStep, writeStep, readStep, hs] <;>
    cases a <;> exact ⟨_, rfl, rfl, congrArg (BusView.mk s.cfg _ s.seq) hv⟩

theorem countTx_repeat {b : BusRegs} (h : b.rm = true) : countTx b = b := if_pos h

/-- The register byte of a write, in repeat mode, with an answer ready (R152). -/
theorem does_write_reg (hm : v.bt.rm = true) (ha : v.env.tx = a :: rest) :
    Does (.w .reg) (XferAt.answered (.w .reg) a) [.tx v.bt.rega a] v
      { v with bt := answerRegs a v.bt, env := { v.env with tx := rest } } := by
  have h := does_reg (x := .w .reg) (.inl rfl) ha
  rwa [countTx_repeat hm] at h

/-- A payload byte of a write, in repeat mode, with an answer ready (R145, R152). -/
theorem does_payload {c : Byte} {cs : List Byte} (hm : v.bt.rm = true) (hb : v.seq.txbuf = c :: cs)
    (ha : v.env.tx = a :: rest) :
    Does (.w .data) (XferAt.answered (.w .data) a) [.tx c a] v
      { v with bt := answerRegs a v.bt, seq := { v.seq with txbuf := cs }, env := { v.env with tx := rest } } := by
  rintro s rfl
  obtain ⟨e, he, hs⟩ := State.tx_ready (s := { s with seq := { s.seq with txbuf := cs } }) (b := c) ha
  have hv := he.view
  replace hb : s.seq.txbuf = c :: cs := hb
  simp only [xferStep, writeStep, hb, hs, countTx_repeat (show s.bt.rm = true from hm)]
  cases a <;> exact ⟨_, rfl, rfl, congrArg (BusView.mk s.cfg _ { s.seq with txbuf := cs }) hv⟩

/-- The STOP of a write whose payload has been sent (R148, R152). -/
theorem does_sent (hb : v.seq.txbuf = []) :
    Does (.w .data) (.done (.ok [])) [.stop] v { v with bt := stopModes v.bt } := by
  rintro s rfl
  exact ⟨_, xferStep_sent hb, rfl, rfl⟩

/-- The STOP of a write's first attempt, refused at its address or register byte: the retry begins (R152). -/
theorem does_nackStop_retry (hr : v.bt.retry = false) :
    Does (.w .nackStop) (.go (.w .start)) [.stop] v
      { v with bt := writeAttempt { stopModes v.bt with retry := true } } := by
  rintro s rfl
  exact ⟨_, if_neg (show ¬ s.bt.retry = true from Bool.eq_false_iff.mp hr), rfl, rfl⟩

/-- The STOP of a write's second refused attempt (R152). -/
theorem does_nackStop_last (hr : v.bt.retry = true) :
    Does (.w .nackStop) (.done (.fail .busNack)) [.stop] v { v with bt := { stopModes v.bt with nack := false } } := by
  rintro s rfl
  exact ⟨_, if_pos (show s.bt.retry = true from hr), rfl, rfl⟩

/-- The STOP after a refused payload byte, or after a refused byte of a read (R152, R153). -/
theorem does_refusedStop (hx : x = .w .payloadStop ∨ x = .r .nackStop) :
    Does x (.done (.fail .busNack)) [.stop] v { v with bt := { stopModes v.bt with nack := false } } := by
  rintro s rfl
  rcases hx with rfl | rfl <;> exact ⟨_, rfl, rfl, rfl⟩

/-- The poll of a read, with its outcome ready (R149, R153). -/
theorem does_poll {ok : Bool} {rdys : List Bool} (hr : v.env.ready = ok :: rdys) :
    Does (.r .poll) (.go (.r (if ok then .stop1 else .timeout))) [.ready ok] v
      { v with bt := { v.bt with ardy := v.bt.ardy || ok }, env := { v.env with ready := rdys } } := by
  rintro s rfl
  have hs : s.pollReady = (ok, { s with
      bt := { s.bt with ardy := s.bt.ardy || ok }, trace := s.trace ++ [.ready ok],
      env := { s.env with ready := rdys } }) := by
    simp only [State.pollReady, Env.askReady_ready (e := s.env) hr]
  simp only [xferStep, readStep, hs]
  cases ok <;> exact ⟨_, rfl, rfl, rfl⟩

/-- The recovery of a read whose poll has failed (R151, R153). -/
theorem does_timeout :
    Does (.r .timeout) (.done (.fail .busTimeout)) [.stop, .reset, .init] v
      { v with bt := busInitialised v.cfg v.bt } := by
  rintro s rfl
  exact ⟨_, rfl, by simp [traced], rfl⟩

/-- The STOP of phase 1 of a read (R153). -/
theorem does_stop1 :
    Does (.r .stop1) (.go (.r .start2)) [.stop] v { v with bt := readAttempt v.bt.cnt (stopModes v.bt) } := by
  rintro s rfl
  exact ⟨_, rfl, rfl, rfl⟩

/-- The STOP of phase 2 of a read returns what has been received (R153). -/
theorem does_stop2 :
    Does (.r .stop2) (.done (.ok v.seq.rbuf)) [.stop] v { v with bt := stopModes v.bt } := by
  rintro s rfl
  exact ⟨_, rfl, rfl, rfl⟩

end

/-! ### The steps of a caller -/

/-- At the phases `here` an instruction takes the primitives of a procedure, and `reply` is what it does with the
return value. -/
def Calls (i : Instr) (here : XferAt → Phase) (reply : Cfg → Reply → State → State) : Prop :=
  ∀ s x, s.seq.phase = here x → exec i s = .next (s.xfer x here (reply s.cfg))

theorem calls_cmd {i : Instr} {k : Site} (hi : i.isCommand = true) (hk : ownsSite i k = true) :
    Calls i (.cmd k) fun c => cmdReply c i k :=
  fun _ _ hp => exec_cmd hp hi hk

theorem calls_record {i : Instr} {k : Site} (hi : i.isCommand = false) (hk : ownsSite i k = true) :
    Calls i (.record k) fun _ => recReply i k :=
  fun _ _ hp => exec_record hp hi hk

section
variable {i : Instr} {here : XferAt → Phase} {reply : Cfg → Reply → State → State} {x y : XferAt} {r : Reply}
  {es : List Event} {v w : BusView}

theorem execTimes_one {s t : State} (h : exec i s = .next t) : execTimes 1 i s = .next t := execTimes_succ h

/-- A primitive after which the procedure goes on is one step of its caller. -/
theorem Does.leads (h : Does x (.go y) es v w) (hc : Calls i here reply) (hp : v.seq.phase = here x) :
    Leads i 1 es v (w.goto (here y)) := by
  rintro s rfl
  obtain ⟨t, hx, htr, rfl⟩ := h s rfl
  refine ⟨t.goto (here y), execTimes_one ?_, ⟨(xferStep_go hx).2.1.trans (OnlyBus.goto t _), htr⟩, rfl⟩
  rw [hc s x hp, State.xfer_go hx]

/-- A primitive at which the procedure returns is one step of its caller, which ends with the caller's use of the
reply. -/
theorem Does.returns (h : Does x (.done r) es v w) (hc : Calls i here reply) (hp : v.seq.phase = here x)
    {s : State} (hs : s.view = v) :
    ∃ t, execTimes 1 i s = .next (reply v.cfg r t) ∧ Moves es s t ∧ t.view = w := by
  subst hs
  obtain ⟨t, hx, htr, rfl⟩ := h s rfl
  refine ⟨t, execTimes_one ?_, ⟨(xferStep_done hx).1, htr⟩, rfl⟩
  rw [hc s x hp, State.xfer_done hx]
  rfl

end

/-- The result that a command's ending writes (R275, R276). -/
def Ending.result : Ending → Result
  | .succeed rbit => succeededWith rbit
  | .fail code cause => failedWith code cause

theorem State.finish_goto (s : State) (e : Ending) : (s.goto (.ending e)).finish e = endedWith e.result s := by
  cases e <;> rfl

theorem State.ended_endedWith (s : State) (r : Result) : Ended r s.bt [] s (endedWith r s) :=
  ⟨⟨rfl, rfl, rfl, rfl, rfl, rfl, rfl, rfl, rfl, rfl, rfl, rfl, rfl, [], (List.append_nil _).symm⟩, rfl, rfl,
    (List.append_nil _).symm⟩

/-- The ending of a command is the step after the one in which its last transaction has returned. -/
theorem execTimes_ending {i : Instr} {n : Nat} {s t : State} {e : Ending} (hi : i.isCommand = true)
    (h : execTimes n i s = .next (t.goto (.ending e))) : execTimes (n + 1) i s = .next (endedWith e.result t) := by
  rw [execTimes_add h, execTimes_one (exec_ending rfl hi), State.finish_goto]

/-- A command whose last transaction returns with a reply that it only turns into its ending. -/
theorem Does.ends {i : Instr} {k : Site} {x : XferAt} {r : Reply} {es : List Event} {v w : BusView} {e : Ending}
    (h : Does x (.done r) es v w) (hi : i.isCommand = true) (hk : ownsSite i k = true)
    (hp : v.seq.phase = .cmd k x) (hr : ∀ c s, cmdReply c i k r s = s.goto (.ending e)) :
    Ends i 2 es v e.result w.bt := by
  intro s hs
  obtain ⟨t, ht, hm, rfl⟩ := h.returns (calls_cmd hi hk) hp hs
  rw [hr] at ht
  have he := hm.ended (t.ended_endedWith e.result)
  rw [List.append_nil] at he
  exact ⟨_, execTimes_ending hi ht, he⟩

end Sys2Proof.Machine
end

section
/-! SUPPORT. A `BT_Write` to each of its ends, and WRB (R152, R154): acknowledged throughout, refused at the address or
the register byte and sent again, refused in its payload, and with arbitration lost at any byte. -/

namespace Sys2Proof.Machine

/-! ### The ends of a write -/

/-- A command for which a write at this call site is the last thing it does: it ends with the write's reply. -/
structure WriteCaller (i : Instr) (k : Site) : Prop where
  command : i.isCommand = true
  owns : ownsSite i k = true
  reply : ∀ c r s, cmdReply c i k r s = endWith r s

theorem WriteCaller.calls {i : Instr} {k : Site} (h : WriteCaller i k) : Calls i (.cmd k) fun c => cmdReply c i k :=
  calls_cmd h.command h.owns

/-- A write whose Start is next and open, in repeat mode (R143, R152). -/
structure WriteReady (k : Site) (v : BusView) : Prop where
  phase : v.seq.phase = .cmd k (.w .start)
  free : busHeld v.bt = false
  rm : v.bt.rm = true

/-- The bus side of a write that has been acknowledged so far, with these payload bytes left. -/
def BusView.sending (v : BusView) (k : Site) (left : List Byte) (addrs txs : List Answer) : BusView :=
  { v with
    bt := startModes .write v.bt, seq := { v.seq with txbuf := left, phase := .cmd k (.w .data) },
    env := { v.env with addr := addrs, tx := txs } }

/-- The bus side of a write whose address or register byte has been refused (R152). -/
def BusView.refused (v : BusView) (k : Site) (addrs txs : List Answer) : BusView :=
  BusView.goto { v with
    bt := noteAnswer .nack (startModes .write v.bt), env := { v.env with addr := addrs, tx := txs } }
    (.cmd k (.w .nackStop))

section
variable {i : Instr} {k : Site} {v : BusView} {addrs txs : List Answer} {bs more : List Byte} {c : Byte} {a : Answer}
  {n : Nat}

theorem leads_payload (hc : WriteCaller i k) (hp : v.seq.phase = .cmd k (.w .data)) (hm : v.bt.rm = true)
    (hb : v.seq.txbuf = bs ++ more) (ht : v.env.tx = List.replicate bs.length .ack ++ txs) :
    Leads i bs.length (bs.map fun b => .tx b .ack) v
      { v with seq := { v.seq with txbuf := more }, env := { v.env with tx := txs } } := by
  rintro s rfl
  obtain ⟨e, he, hs⟩ := exec_payload hc.command hc.owns bs more s txs hp hb hm ht
  exact ⟨_, hs, ⟨⟨rfl, rfl, rfl, rfl, rfl, rfl, rfl, rfl, rfl, rfl, rfl, rfl, rfl, _, rfl⟩, rfl⟩,
    congrArg (BusView.mk s.cfg s.bt { s.seq with txbuf := more }) he.view⟩

/-- The START of a write, not lost (R144). -/
theorem leads_write_start (hc : WriteCaller i k) (hv : WriteReady k v) (ha : v.env.addr = a :: addrs)
    (hn : a ≠ .arblost) :
    Leads i 1 [.start, .addr v.bt.sa .write a] v
      (BusView.goto { v with bt := noteAnswer a (startModes .write v.bt), env := { v.env with addr := addrs } }
        (.cmd k (XferAt.next a (.w .start)))) := by
  have h := does_start (x := .w .start) rfl hv.free ha
  cases a
  case arblost => exact absurd rfl hn
  all_goals exact h.leads hc.calls hv.phase

/-- The register byte of a write, not lost (R145). -/
theorem leads_write_reg (hc : WriteCaller i k) (hp : v.seq.phase = .cmd k (.w .reg)) (hm : v.bt.rm = true)
    (ht : v.env.tx = a :: txs) (hn : a ≠ .arblost) :
    Leads i 1 [.tx v.bt.rega a] v
      (BusView.goto { v with bt := noteAnswer a v.bt, env := { v.env with tx := txs } }
        (.cmd k (XferAt.next a (.w .reg)))) := by
  have h := does_write_reg hm ht
  cases a
  case arblost => exact absurd rfl hn
  all_goals exact h.leads hc.calls hp

/-- A write that is acknowledged up to these payload bytes (R152). -/
theorem leads_sent (hc : WriteCaller i k) (hv : WriteReady k v) (ha : v.env.addr = .ack :: addrs)
    (ht : v.env.tx = List.replicate (n + 1) .ack ++ txs) (hb : v.seq.txbuf = bs ++ more) (hl : bs.length = n) :
    Leads i (n + 2) (sentTrace v.bt.sa v.bt.rega bs) v (v.sending k more addrs txs) := by
  subst hl
  have hstart := leads_write_start hc hv ha nofun
  have hreg := leads_write_reg hc (v := BusView.goto { v with
    bt := startModes .write v.bt, env := { v.env with addr := addrs } } (.cmd k (.w .reg))) rfl hv.rm ht nofun
  rw [Nat.add_comm]
  exact (hstart.trans hreg).trans (leads_payload hc rfl hv.rm hb rfl)

/-- A write that is acknowledged throughout ends its command with OK (R152). -/
theorem ends_acknowledged (hc : WriteCaller i k) (hv : WriteReady k v) (ha : v.env.addr = .ack :: addrs)
    (ht : v.env.tx = List.replicate (n + 1) .ack ++ txs) (hl : v.seq.txbuf.length = n) :
    Ends i (n + 4) (writeTrace v.bt.sa v.bt.rega v.seq.txbuf) v (succeededWith false)
      (stopModes (startModes .write v.bt)) :=
  (leads_sent hc hv ha ht (List.append_nil _).symm hl).ends
    ((does_sent rfl).ends hc.command hc.owns rfl (e := .succeed false) fun c s => hc.reply c _ s)

/-- A payload byte that is refused ends the command with BUS_NACK, its STOP requested (R152). -/
theorem ends_payload_refused (hc : WriteCaller i k) (hv : WriteReady k v) (ha : v.env.addr = .ack :: addrs)
    (ht : v.env.tx = List.replicate (n + 1) .ack ++ .nack :: txs) (hb : v.seq.txbuf = bs ++ c :: more)
    (hl : bs.length = n) :
    Ends i (n + 5) (cutShortTrace v.bt.sa v.bt.rega bs c .nack ++ [.stop]) v (failedWith .busNack .ok)
      { stopModes (startModes .write v.bt) with nack := false } :=
  have hbyte := does_payload (v := v.sending k (c :: more) addrs (.nack :: txs)) hv.rm rfl rfl
  ((leads_sent hc hv ha ht hb hl).trans (hbyte.leads hc.calls rfl)).ends
    ((does_refusedStop (.inl rfl)).ends hc.command hc.owns rfl (e := .fail .busNack .ok) fun c s => hc.reply c _ s)

/-- Arbitration lost at the address byte ends the command with ARB_LOST (R147). -/
theorem ends_start_lost (hc : WriteCaller i k) (hv : WriteReady k v) (ha : v.env.addr = .arblost :: addrs) :
    Ends i 2 [.start, .addr v.bt.sa .write .arblost] v (failedWith .arbLost .ok)
      (answerRegs .arblost (startModes .write v.bt)) :=
  (does_start (x := .w .start) rfl hv.free ha).ends hc.command hc.owns hv.phase (e := .fail .arbLost .ok)
    fun c s => hc.reply c _ s

/-- Arbitration lost at the register byte ends the command with ARB_LOST (R147). -/
theorem ends_reg_lost (hc : WriteCaller i k) (hv : WriteReady k v) (ha : v.env.addr = .ack :: addrs)
    (ht : v.env.tx = .arblost :: txs) :
    Ends i 3 [.start, .addr v.bt.sa .write .ack, .tx v.bt.rega .arblost] v (failedWith .arbLost .ok)
      (answerRegs .arblost (startModes .write v.bt)) :=
  have hbyte := does_write_reg (a := .arblost) (rest := txs) (v := BusView.goto { v with
    bt := startModes .write v.bt, env := { v.env with addr := addrs } } (.cmd k (.w .reg))) hv.rm ht
  (leads_write_start hc hv ha nofun).ends
    (hbyte.ends hc.command hc.owns rfl (e := .fail .arbLost .ok) fun c s => hc.reply c _ s)

/-- Arbitration lost at a payload byte ends the command with ARB_LOST (R147). -/
theorem ends_payload_lost (hc : WriteCaller i k) (hv : WriteReady k v) (ha : v.env.addr = .ack :: addrs)
    (ht : v.env.tx = List.replicate (n + 1) .ack ++ .arblost :: txs) (hb : v.seq.txbuf = bs ++ c :: more)
    (hl : bs.length = n) :
    Ends i (n + 4) (cutShortTrace v.bt.sa v.bt.rega bs c .arblost) v (failedWith .arbLost .ok)
      (answerRegs .arblost (startModes .write v.bt)) :=
  have hbyte := does_payload (v := v.sending k (c :: more) addrs (.arblost :: txs)) hv.rm rfl rfl
  (leads_sent hc hv ha ht hb hl).ends
    (hbyte.ends hc.command hc.owns rfl (e := .fail .arbLost .ok) fun c s => hc.reply c _ s)

/-! ### An attempt that is refused at its address or register byte -/

/-- The bus events of a refused attempt, before its STOP. -/
def FirstNack.sent (sa : BitVec 7) (reg : Byte) : FirstNack → List Event
  | .address => [.start, .addr sa .write .nack]
  | .register => [.start, .addr sa .write .ack, .tx reg .nack]

theorem FirstNack.sent_stop (n : FirstNack) (sa : BitVec 7) (reg : Byte) :
    n.sent sa reg ++ [.stop] = n.trace sa reg := by
  cases n <;> rfl

/-- A refused attempt, from its Start to the step before its STOP. -/
theorem leads_nackStop (hc : WriteCaller i k) (hv : WriteReady k v) (n : FirstNack) (he : n.answers addrs txs v.env) :
    Leads i (n.steps - 2) (n.sent v.bt.sa v.bt.rega) v (v.refused k addrs txs) := by
  cases n
  case address =>
    obtain ⟨ha, rfl⟩ := he
    exact leads_write_start hc hv ha nofun
  case register =>
    obtain ⟨ha, ht⟩ := he
    exact (leads_write_start hc hv ha nofun).trans (leads_write_reg hc rfl hv.rm ht nofun)

/-- The first attempt of a write, refused: the retry's Start comes next, with the STOP still pending (R152). -/
theorem leads_refused (hc : WriteCaller i k) (hv : WriteReady k v) (hr : v.bt.retry = false) (n : FirstNack)
    (he : n.answers addrs txs v.env) :
    Leads i (n.steps - 1) (n.trace v.bt.sa v.bt.rega) v
      (BusView.goto { v with
        bt := { busAfter v.bt v.bt.sa v.bt.rega v.bt.cnt with rm := true, retry := true },
        env := { v.env with addr := addrs, tx := txs } } (.cmd k (.w .start))) := by
  have hsteps : n.steps - 1 = n.steps - 2 + 1 := by cases n <;> rfl
  rw [← n.sent_stop, hsteps]
  have hstop := does_nackStop_retry (v := v.refused k addrs txs) hr
  exact (leads_nackStop hc hv n he).trans (hstop.leads hc.calls rfl)

/-- The second attempt of a write, refused: the command ends with BUS_NACK (R152). -/
theorem ends_refused (hc : WriteCaller i k) (hv : WriteReady k v) (hr : v.bt.retry = true) (n : FirstNack)
    (he : n.answers addrs txs v.env) :
    Ends i n.steps (n.trace v.bt.sa v.bt.rega) v (failedWith .busNack .ok)
      { stopModes (startModes .write v.bt) with nack := false } := by
  have hsteps : n.steps = n.steps - 2 + 2 := by cases n <;> rfl
  rw [← n.sent_stop, hsteps]
  have hstop := does_nackStop_last (v := v.refused k addrs txs) hr
  exact (leads_nackStop hc hv n he).ends
    (hstop.ends hc.command hc.owns rfl (e := .fail .busNack .ok) fun c s => hc.reply c _ s)

end

/-! ### WRB -/

section
variable {sa : BitVec 7} {reg : Byte} {cnt : BitVec 16} {s : State} {addrs txs : List Answer}

theorem writeCaller_wrb (sa : BitVec 7) (reg : Byte) (cnt : BitVec 16) : WriteCaller (.wrb sa reg cnt) .wrb :=
  ⟨rfl, rfl, fun _ _ _ => rfl⟩

/-- The bus side of WRB at the Start of an attempt: the payload is loaded, and these are the registers. -/
def wrbAttempt (cnt : BitVec 16) (s : State) (b : BusRegs) (addrs txs : List Answer) : BusView :=
  { s.view with
    bt := b, seq := { s.seq with txbuf := s.pbufBytes cnt.toNat, phase := .cmd .wrb (.w .start) },
    env := { s.view.env with addr := addrs, tx := txs } }

/-- The bus registers at WRB's first attempt, on a free bus (R152, R154). -/
def wrbFirst (sa : BitVec 7) (reg : Byte) (cnt : BitVec 16) (b : BusRegs) : BusRegs :=
  writeAttempt { b with sa := sa, rega := reg, cnt := cnt, retry := false, stp := false, bb := false }

/-- The bus registers at WRB's second attempt, before ENV's StopComplete (R152). -/
def wrbSecond (sa : BitVec 7) (reg : Byte) (cnt : BitVec 16) (b : BusRegs) : BusRegs :=
  { busAfter b sa reg cnt with rm := true, retry := true }

/-- The bus registers of a free bus, with its two flags written out. -/
theorem BusRegs.eq_of_free {b : BusRegs} (hs : b.stp = false) (hb : b.bb = false) :
    b = { b with stp := false, bb := false } := by
  cases b
  cases hs
  cases hb
  rfl

/-- An accepted WRB with a free bus stands at the Start of its first attempt after one step (R154). -/
theorem reaches_wrbFirst (hp : accepted s) (hi : s.bt.initd = true) (hf : busFree s)
    (hc : cnt.toNat ≤ s.cfg.pbufSize) (ha : s.env.addr = addrs) (ht : s.env.tx = txs) :
    Reaches (.wrb sa reg cnt) 1 [] s (wrbAttempt cnt s (wrbFirst sa reg cnt s.bt) addrs txs) := by
  have hstep : acceptStep (.wrb sa reg cnt) s = s.beginWrite sa reg (s.pbufBytes cnt.toNat) (.cmd .wrb) :=
    (if_neg (Nat.not_lt.mpr hc)).trans (if_pos hi)
  have hcnt : BitVec.ofNat 16 (s.pbufBytes cnt.toNat).length = cnt := by
    rw [State.length_pbufBytes, BitVec.ofNat_toNat, BitVec.setWidth_eq]
  have hbt : (s.beginWrite sa reg (s.pbufBytes cnt.toNat) (.cmd .wrb)).bt = wrbFirst sa reg cnt s.bt := by
    rw [State.beginWrite_bt, hcnt]
    exact congrArg (fun b : BusRegs => writeAttempt { b with sa := sa, rega := reg, cnt := cnt, retry := false })
      (BusRegs.eq_of_free hf.1 hf.2)
  subst ha ht
  exact ⟨_, execTimes_one ((exec_accepted hp rfl).trans (congrArg _ hstep)),
    ⟨OnlyBus.beginWrite _ _ _ _ _, (List.append_nil _).symm⟩, congrArg (BusView.mk _ · _ _) hbt⟩

theorem writeReady_wrbFirst (s : State) (addrs txs : List Answer) :
    WriteReady .wrb (wrbAttempt cnt s (wrbFirst sa reg cnt s.bt) addrs txs) :=
  ⟨rfl, rfl, rfl⟩

theorem writeReady_wrbSecond (s : State) (addrs txs : List Answer) :
    WriteReady .wrb (wrbAttempt cnt s (wrbSecond sa reg cnt s.bt) addrs txs).stopComplete :=
  ⟨rfl, rfl, rfl⟩

/-- WRB to the end of its command in its first attempt. -/
theorem wrbFirst_ends {n : Nat} {es : List Event} {r : Result} {b : BusRegs} (hp : accepted s)
    (hi : s.bt.initd = true) (hf : busFree s) (hc : cnt.toNat ≤ s.cfg.pbufSize)
    (h : Ends (.wrb sa reg cnt) n es (wrbAttempt cnt s (wrbFirst sa reg cnt s.bt) s.env.addr s.env.tx) r b) :
    ∃ t, execTimes (n + 1) (.wrb sa reg cnt) s = .next t ∧ Ended r b es s t := by
  rw [Nat.add_comm]
  exact (reaches_wrbFirst hp hi hf hc rfl rfl).ends h

/-- WRB to the end of its command in its second attempt, after a refused first one and ENV's StopComplete (R152). -/
theorem wrbSecond_ends {m : Nat} {es : List Event} {r : Result} {b : BusRegs} (hp : accepted s)
    (hi : s.bt.initd = true) (hf : busFree s) (hc : cnt.toNat ≤ s.cfg.pbufSize) {n : FirstNack}
    (he : n.answers addrs txs s.env)
    (h : Ends (.wrb sa reg cnt) m es (wrbAttempt cnt s (wrbSecond sa reg cnt s.bt) addrs txs).stopComplete r b) :
    ∃ t u, execTimes n.steps (.wrb sa reg cnt) s = .next t ∧ t.bt.retry = true ∧
      execTimes m (.wrb sa reg cnt) (stopComplete t) = .next u ∧ Ended r b (n.trace sa reg ++ es) s u := by
  have hsteps : n.steps = 1 + (n.steps - 1) := by cases n <;> rfl
  have hview : n.answers addrs txs s.view.env := by cases n <;> exact he
  have hreach := (reaches_wrbFirst hp hi hf hc rfl rfl).trans
    (leads_refused (writeCaller_wrb sa reg cnt) (writeReady_wrbFirst s _ _) rfl n hview)
  rw [← hsteps] at hreach
  obtain ⟨t, u, ht, hv, hu, hend⟩ := hreach.stopped_ends (v := wrbAttempt cnt s (wrbSecond sa reg cnt s.bt) addrs txs) h
  exact ⟨t, u, ht, congrArg (·.bt.retry) hv, hu, hend⟩

/-- The payload of WRB around its byte `k`. -/
theorem State.pbufBytes_split (s : State) {k n : Nat} (h : k < n) :
    ∃ more, s.pbufBytes n = s.pbufBytes k ++ s.pbufByte k :: more := by
  obtain ⟨m, rfl⟩ := Nat.exists_eq_add_of_lt h
  rw [Nat.add_right_comm]
  exact ⟨((List.range m).map (k + 1 + ·)).map s.pbufByte, by
    simp only [State.pbufBytes, List.range_add, List.range_succ, List.map_append, List.map_cons,
      List.append_assoc, List.cons_append, List.nil_append]⟩

end

/-- Settles O22: one attempt, acknowledged throughout. -/
theorem wrbSendsItsPayload : Obligations.WrbSendsItsPayload := by
  intro sa reg cnt s addrs txs hp hi hf hc ha ht
  obtain ⟨t, hrun, he⟩ := wrbFirst_ends hp hi hf hc
    (ends_acknowledged (writeCaller_wrb sa reg cnt) (writeReady_wrbFirst s _ _) ha ht (s.length_pbufBytes _))
  exact ⟨t, hrun, he.bus.result, he.bus.busy, he.idle, he.bt, he.traced,
    State.pbufByte_congr he.bus.pbuf he.bus.epoch, State.imgByte_congr he.bus.img he.bus.epoch⟩

/-- Settles O23: the first attempt is refused, and so is the second. -/
theorem wrbGivesUpAfterOneRetry : Obligations.WrbGivesUpAfterOneRetry := by
  intro sa reg cnt s addrs txs n hp hi hf hc gaveUp
  suffices h : ∀ (second : FirstNack) (as ts : List Answer), n.answers as ts s.env →
      second.answers addrs txs { s.view.env with addr := as, tx := ts } → gaveUp second from
    ⟨fun he => h .address _ _ he ⟨rfl, rfl⟩, fun he => h .register _ _ he ⟨rfl, rfl⟩⟩
  intro second as ts he he'
  obtain ⟨t, u, ht, hr, hu, hend⟩ := wrbSecond_ends hp hi hf hc he
    (ends_refused (writeCaller_wrb sa reg cnt) (writeReady_wrbSecond s _ _) rfl second he')
  exact ⟨t, u, ht, hr, hu, hend.bus.result, hend.bus.busy, hend.bt, hend.traced⟩

/-- Settles O24: the first attempt is refused, and the second is acknowledged throughout. -/
theorem wrbRetryCanSucceed : Obligations.WrbRetryCanSucceed := by
  intro sa reg cnt s addrs txs n hp hi hf hc he
  obtain ⟨t, u, ht, -, hu, hend⟩ := wrbSecond_ends hp hi hf hc he
    (ends_acknowledged (writeCaller_wrb sa reg cnt) (writeReady_wrbSecond s _ _) rfl rfl (s.length_pbufBytes _))
  exact ⟨t, u, ht, hu, hend.bus.result, hend.bus.busy, hend.traced⟩

/-- Settles O25: the payload byte is refused in the first attempt, or in the second. -/
theorem wrbPayloadNackAborts : Obligations.WrbPayloadNackAborts := by
  intro sa reg cnt k s addrs txs hp hi hf hc hk aborted
  obtain ⟨more, hmore⟩ := s.pbufBytes_split hk
  refine ⟨fun ha ht => ?_, fun n he => ?_⟩
  · obtain ⟨t, hrun, hend⟩ := wrbFirst_ends hp hi hf hc
      (ends_payload_refused (writeCaller_wrb sa reg cnt) (writeReady_wrbFirst s _ _) ha ht hmore (s.length_pbufBytes k))
    exact ⟨t, hrun, ⟨hend.bus.result, hend.bus.busy, hend.bt⟩, hend.traced⟩
  · obtain ⟨t, u, ht, -, hu, hend⟩ := wrbSecond_ends hp hi hf hc he
      (ends_payload_refused (writeCaller_wrb sa reg cnt) (writeReady_wrbSecond s _ _) rfl rfl hmore
        (s.length_pbufBytes k))
    refine ⟨t, u, ht, hu, ⟨hend.bus.result, hend.bus.busy, hend.bt⟩, ?_⟩
    rw [List.append_assoc]
    exact hend.traced

/-- Settles O26: arbitration is lost at each byte of the first attempt, and at each byte of the second. -/
theorem wrbStopsOnArbitrationLoss : Obligations.WrbStopsOnArbitrationLoss := by
  intro sa reg cnt s addrs txs hp hi hf hc lost lostInRetry
  have hcall := writeCaller_wrb sa reg cnt
  have hfirst : ∀ (n : Nat) (es : List Event),
      Ends (.wrb sa reg cnt) n es (wrbAttempt cnt s (wrbFirst sa reg cnt s.bt) s.env.addr s.env.tx)
        (failedWith .arbLost .ok) (answerRegs .arblost (startModes .write (wrbFirst sa reg cnt s.bt))) →
      ∃ t, execTimes (n + 1) (.wrb sa reg cnt) s = .next t ∧ lost false t ∧ traced s es t := by
    intro n es h
    obtain ⟨t, ht, hend⟩ := wrbFirst_ends hp hi hf hc h
    exact ⟨t, ht, ⟨hend.bus.result, hend.bus.busy, hend.bt⟩, hend.traced⟩
  have hsecond : ∀ (n : FirstNack) (m : Nat) (es : List Event) (as ts : List Answer), n.answers as ts s.env →
      Ends (.wrb sa reg cnt) m es (wrbAttempt cnt s (wrbSecond sa reg cnt s.bt) as ts).stopComplete
        (failedWith .arbLost .ok)
        (answerRegs .arblost (startModes .write (stopCompleteFlags (wrbSecond sa reg cnt s.bt)))) →
      lostInRetry n m es := by
    intro n m es as ts he h
    obtain ⟨t, u, ht, -, hu, hend⟩ := wrbSecond_ends hp hi hf hc he h
    exact ⟨t, u, ht, hu, ⟨hend.bus.result, hend.bus.busy, hend.bt⟩, hend.traced⟩
  refine ⟨fun ha => hfirst 2 _ (ends_start_lost hcall (writeReady_wrbFirst s _ _) ha),
    fun ha ht => hfirst 3 _ (ends_reg_lost hcall (writeReady_wrbFirst s _ _) ha ht), fun k hk ha ht => ?_, fun n =>
    ⟨fun he => hsecond n 2 _ _ _ he (ends_start_lost hcall (writeReady_wrbSecond s _ _) rfl),
      fun he => hsecond n 3 _ _ _ he (ends_reg_lost hcall (writeReady_wrbSecond s _ _) rfl rfl), fun k hk he => ?_⟩⟩
  · obtain ⟨more, hmore⟩ := s.pbufBytes_split hk
    exact hfirst (k + 4) _
      (ends_payload_lost hcall (writeReady_wrbFirst s _ _) ha ht hmore (s.length_pbufBytes k))
  · obtain ⟨more, hmore⟩ := s.pbufBytes_split hk
    exact hsecond n (k + 4) _ _ _ he
      (ends_payload_lost hcall (writeReady_wrbSecond s _ _) rfl rfl hmore (s.length_pbufBytes k))

end Sys2Proof.Machine
end

section
/-! SUPPORT. A `BT_Read` to each of its ends, and the commands that are one: RDB and RDBIT (R153, R155, R157). -/

namespace Sys2Proof.Machine

/-! ### Phase 1 of a read -/

/-- A command with a read at this call site, which ends with the read's code where the read fails. -/
structure ReadCaller (i : Instr) (k : Site) : Prop where
  command : i.isCommand = true
  owns : ownsSite i k = true
  fails : ∀ c code s, cmdReply c i k (.fail code) s = s.goto (.ending (.fail code .ok))

theorem ReadCaller.calls {i : Instr} {k : Site} (h : ReadCaller i k) : Calls i (.cmd k) fun c => cmdReply c i k :=
  calls_cmd h.command h.owns

/-- A read at one of its two Starts, which is open (R143, R153). -/
structure ReadReady (k : Site) (x : XferAt) (v : BusView) : Prop where
  phase : v.seq.phase = .cmd k x
  free : busHeld v.bt = false
  place : x = .r .start1 ∨ x = .r .start2

theorem ReadReady.atStart {k : Site} {x : XferAt} {v : BusView} (h : ReadReady k x v) : x.atStart = true := by
  rcases h.place with rfl | rfl <;> rfl

/-- The bus side of a read whose START has not been lost. -/
def BusView.started (v : BusView) (k : Site) (x : XferAt) (a : Answer) (addrs : List Answer) : BusView :=
  BusView.goto { v with bt := noteAnswer a (startModes x.dir v.bt), env := { v.env with addr := addrs } }
    (.cmd k (x.next a))

/-- The bus side of a read whose register byte has not been lost. -/
def BusView.registered (v : BusView) (k : Site) (a : Answer) (addrs txs : List Answer) : BusView :=
  BusView.goto { v with
    bt := noteAnswer a (countTx (startModes .write v.bt)), env := { v.env with addr := addrs, tx := txs } }
    (.cmd k (XferAt.next a (.r .reg)))

/-- The bus side of a read that has been polled. -/
def BusView.polled (v : BusView) (k : Site) (ok : Bool) (addrs txs : List Answer) (rdys : List Bool) : BusView :=
  BusView.goto { v with
    bt := { countTx (startModes .write v.bt) with ardy := (countTx (startModes .write v.bt)).ardy || ok },
    env := { v.env with addr := addrs, tx := txs, ready := rdys } }
    (.cmd k (.r (if ok then .stop1 else .timeout)))

/-- The bus side of a read between its phases: the STOP of phase 1 is pending, and phase 2 is set up (R153). -/
def BusView.turned (v : BusView) (k : Site) (addrs txs : List Answer) (rdys : List Bool) : BusView :=
  BusView.goto { v with
    bt := { busAfter v.bt v.bt.sa v.bt.rega v.bt.cnt with rm := false, bcnt := v.bt.cnt },
    env := { v.env with addr := addrs, tx := txs, ready := rdys } }
    (.cmd k (.r .start2))

section
variable {i : Instr} {k : Site} {x : XferAt} {v : BusView} {addrs txs : List Answer} {rdys : List Bool} {a : Answer}
  {ok : Bool}

/-- A START of a read that is not lost (R144). -/
theorem leads_read_start (hc : ReadCaller i k) (hv : ReadReady k x v) (ha : v.env.addr = a :: addrs)
    (hn : a ≠ .arblost) : Leads i 1 [.start, .addr v.bt.sa x.dir a] v (v.started k x a addrs) := by
  have h := does_start hv.atStart hv.free ha
  cases a
  case arblost => exact absurd rfl hn
  all_goals exact h.leads hc.calls hv.phase

/-- Phase 1 of a read up to its register byte, not lost (R153). -/
theorem leads_read_reg (hc : ReadCaller i k) (hv : ReadReady k (.r .start1) v) (ha : v.env.addr = .ack :: addrs)
    (ht : v.env.tx = a :: txs) (hn : a ≠ .arblost) :
    Leads i 2 [.start, .addr v.bt.sa .write .ack, .tx v.bt.rega a] v (v.registered k a addrs txs) := by
  refine (leads_read_start hc hv ha nofun).trans (n := 1) (fs := [.tx v.bt.rega a]) ?_
  have h := does_reg (v := v.started k (.r .start1) .ack addrs) (.inr rfl) ht
  cases a
  case arblost => exact absurd rfl hn
  all_goals exact h.leads hc.calls rfl

/-- Phase 1 of a read up to its poll (R149, R153). -/
theorem leads_polled (hc : ReadCaller i k) (hv : ReadReady k (.r .start1) v) (ha : v.env.addr = .ack :: addrs)
    (ht : v.env.tx = .ack :: txs) (hr : v.env.ready = ok :: rdys) :
    Leads i 3 [.start, .addr v.bt.sa .write .ack, .tx v.bt.rega .ack, .ready ok] v
      (v.polled k ok addrs txs rdys) := by
  have hpoll := does_poll (v := v.registered k .ack addrs txs) hr
  exact (leads_read_reg hc hv ha ht nofun).trans (hpoll.leads hc.calls rfl)

/-- Phase 1 of a read that is acknowledged and ready, its STOP pending (R153). -/
theorem leads_turned (hc : ReadCaller i k) (hv : ReadReady k (.r .start1) v) (ha : v.env.addr = .ack :: addrs)
    (ht : v.env.tx = .ack :: txs) (hr : v.env.ready = true :: rdys) :
    Leads i 4 (readTraceFirst v.bt.sa v.bt.rega) v (v.turned k addrs txs rdys) := by
  have hstop := (does_stop1 (v := v.polled k true addrs txs rdys)).leads hc.calls rfl
  have hbt : readAttempt (v.polled k true addrs txs rdys).bt.cnt (stopModes (v.polled k true addrs txs rdys).bt) =
      { busAfter v.bt v.bt.sa v.bt.rega v.bt.cnt with rm := false, bcnt := v.bt.cnt } := by
    simp only [BusView.polled, BusView.goto, countTx_eq]
    rfl
  rw [hbt] at hstop
  exact (leads_polled hc hv ha ht hr).trans hstop

/-! ### The failures of a read -/

/-- A failed poll ends the command with BUS_TIMEOUT, the controller initialised again (R151). -/
theorem ends_timeout (hc : ReadCaller i k) (hv : ReadReady k (.r .start1) v) (ha : v.env.addr = .ack :: addrs)
    (ht : v.env.tx = .ack :: txs) (hr : v.env.ready = false :: rdys) :
    Ends i 5 [.start, .addr v.bt.sa .write .ack, .tx v.bt.rega .ack, .ready false, .stop, .reset, .init] v
      (failedWith .busTimeout .ok) (busInitialised v.cfg v.bt) := by
  have hends := (does_timeout (v := v.polled k false addrs txs rdys)).ends hc.command hc.owns rfl
    (e := .fail .busTimeout .ok) fun c => hc.fails c _
  have hbt : busInitialised v.cfg (v.polled k false addrs txs rdys).bt = busInitialised v.cfg v.bt := by
    simp only [BusView.polled, BusView.goto, countTx_eq]
    rfl
  rw [← hbt]
  exact (leads_polled hc hv ha ht hr).ends hends

/-- The registers after the STOP of a refused byte (R153). -/
def refusedRegs (b : BusRegs) : BusRegs := { stopModes (noteAnswer .nack b) with nack := false }

/-- A refused address byte of a read ends the command with BUS_NACK, its STOP requested (R153). -/
theorem ends_read_start_refused (hc : ReadCaller i k) (hv : ReadReady k x v) (ha : v.env.addr = .nack :: addrs) :
    Ends i 3 [.start, .addr v.bt.sa x.dir .nack, .stop] v (failedWith .busNack .ok)
      (refusedRegs (startModes x.dir v.bt)) := by
  have hnext : x.next .nack = .r .nackStop := by rcases hv.place with rfl | rfl <;> rfl
  have hstop := does_refusedStop (v := v.started k x .nack addrs) (.inr hnext)
  exact (leads_read_start hc hv ha nofun).ends
    (hstop.ends hc.command hc.owns rfl (e := .fail .busNack .ok) fun c => hc.fails c _)

/-- A refused register byte of a read ends the command with BUS_NACK, its STOP requested (R153). -/
theorem ends_read_reg_refused (hc : ReadCaller i k) (hv : ReadReady k (.r .start1) v) (ha : v.env.addr = .ack :: addrs)
    (ht : v.env.tx = .nack :: txs) :
    Ends i 4 [.start, .addr v.bt.sa .write .ack, .tx v.bt.rega .nack, .stop] v (failedWith .busNack .ok)
      (refusedRegs (countTx (startModes .write v.bt))) := by
  have hstop := does_refusedStop (v := v.registered k .nack addrs txs) (.inr rfl)
  exact (leads_read_reg hc hv ha ht nofun).ends
    (hstop.ends hc.command hc.owns rfl (e := .fail .busNack .ok) fun c => hc.fails c _)

/-- Arbitration lost at an address byte of a read ends the command with ARB_LOST (R147). -/
theorem ends_read_start_lost (hc : ReadCaller i k) (hv : ReadReady k x v) (ha : v.env.addr = .arblost :: addrs) :
    Ends i 2 [.start, .addr v.bt.sa x.dir .arblost] v (failedWith .arbLost .ok)
      (answerRegs .arblost (startModes x.dir v.bt)) :=
  (does_start hv.atStart hv.free ha).ends hc.command hc.owns hv.phase (e := .fail .arbLost .ok) fun c => hc.fails c _

/-- Arbitration lost at the register byte of a read ends the command with ARB_LOST (R147). -/
theorem ends_read_reg_lost (hc : ReadCaller i k) (hv : ReadReady k (.r .start1) v) (ha : v.env.addr = .ack :: addrs)
    (ht : v.env.tx = .arblost :: txs) :
    Ends i 3 [.start, .addr v.bt.sa .write .ack, .tx v.bt.rega .arblost] v (failedWith .arbLost .ok)
      (answerRegs .arblost (countTx (startModes .write v.bt))) := by
  have hreg := does_reg (v := v.started k (.r .start1) .ack addrs) (.inr rfl) ht
  exact (leads_read_start hc hv ha nofun).ends
    (hreg.ends hc.command hc.owns rfl (e := .fail .arbLost .ok) fun c => hc.fails c _)

/-! ### Phase 2 of a read -/

/-- The bus side of a read that has received its bytes (R153). -/
def BusView.received (v : BusView) (k : Site) (bytes : List Byte) (addrs : List Answer) (rxs : List Byte) : BusView :=
  { v with
    bt := { startModes .read v.bt with bcnt := 0 },
    seq := { v.seq with rbuf := v.seq.rbuf ++ bytes, phase := .cmd k (.r .stop2) },
    env := { v.env with addr := addrs, rx := rxs } }

/-- The bytes of a read (R146, R153). -/
theorem leads_rx (hc : ReadCaller i k) (hp : v.seq.phase = .cmd k (.r .rx)) {bytes rxs : List Byte}
    (hx : v.env.rx = bytes ++ rxs) (hb : v.bt.bcnt.toNat = bytes.length) (hn : bytes ≠ []) :
    Leads i bytes.length (bytes.map .rx) v
      { v with
        bt := { v.bt with bcnt := 0 },
        seq := { v.seq with rbuf := v.seq.rbuf ++ bytes, phase := .cmd k (.r .stop2) },
        env := { v.env with rx := rxs } } := by
  rintro s rfl
  obtain ⟨e, he, hrun⟩ := exec_receive hc.command hc.owns bytes s rxs hp hb hn hx
  exact ⟨_, hrun, ⟨⟨rfl, rfl, rfl, rfl, rfl, rfl, rfl, rfl, rfl, rfl, rfl, rfl, rfl, _, rfl⟩, rfl⟩,
    congrArg (BusView.mk s.cfg _ _) he.view⟩

/-- Phase 2 of a read that is acknowledged, up to its STOP: one step for the START and one for each byte (R153). -/
theorem leads_received (hc : ReadCaller i k) (hv : ReadReady k (.r .start2) v) {bytes rxs : List Byte}
    (ha : v.env.addr = .ack :: addrs) (hx : v.env.rx = bytes ++ rxs) (hb : v.bt.bcnt.toNat = bytes.length)
    (hn : bytes ≠ []) :
    Leads i (bytes.length + 1) ([.start, .addr v.bt.sa .read .ack] ++ bytes.map .rx) v
      (v.received k bytes addrs rxs) := by
  rw [Nat.add_comm]
  exact (leads_read_start hc hv ha nofun).trans (leads_rx (v := v.started k (.r .start2) .ack addrs) hc rfl hx hb hn)

end

/-! ### The commands that begin with a read -/

/-- The bus side of a command at the Start of its read. -/
def readAt (k : Site) (s : State) (b : BusRegs) : BusView :=
  { s.view with bt := b, seq := { s.seq with rbuf := [], phase := .cmd k (.r .start1) } }

/-- The bus registers at the Start of a command's read, on a free bus (R153). -/
def readFirst (sa : BitVec 7) (reg : Byte) (n : BitVec 16) (b : BusRegs) : BusRegs :=
  readAttempt 1 { b with sa := sa, rega := reg, cnt := n, stp := false, bb := false }

section
variable {i : Instr} {k : Site} {sa : BitVec 7} {reg : Byte} {cnt : BitVec 16} {s : State} {n : Nat} {es : List Event}

theorem readReady_readFirst (k : Site) (sa : BitVec 7) (reg : Byte) (cnt : BitVec 16) (s : State) :
    ReadReady k (.r .start1) (readAt k s (readFirst sa reg cnt s.bt)) :=
  ⟨rfl, rfl, .inl rfl⟩

theorem readReady_turned (k : Site) (v : BusView) (addrs txs : List Answer) (rdys : List Bool) :
    ReadReady k (.r .start2) (v.turned k addrs txs rdys).stopComplete :=
  ⟨rfl, rfl, .inr rfl⟩

/-- An accepted command whose entry is a read stands at its Start after one step (R153). -/
theorem reaches_readFirst (hc : ReadCaller i k) (hp : accepted s) (hf : busFree s)
    (he : acceptStep i s = s.beginRead sa reg cnt (.cmd k)) :
    Reaches i 1 [] s (readAt k s (readFirst sa reg cnt s.bt)) := by
  have hbt : (s.beginRead sa reg cnt (.cmd k)).bt = readFirst sa reg cnt s.bt :=
    congrArg (fun b : BusRegs => readAttempt 1 { b with sa := sa, rega := reg, cnt := cnt })
      (BusRegs.eq_of_free hf.1 hf.2)
  exact ⟨_, execTimes_one ((exec_accepted hp hc.command).trans (congrArg _ he)),
    ⟨OnlyBus.beginRead _ _ _ _ _, (List.append_nil _).symm⟩, congrArg (BusView.mk _ · _ _) hbt⟩

/-- A command whose entry is a read, to its end in phase 1. -/
theorem readFirst_ends (hc : ReadCaller i k) (hp : accepted s) (hf : busFree s)
    (he : acceptStep i s = s.beginRead sa reg cnt (.cmd k)) {r : Result} {b : BusRegs}
    (h : Ends i n es (readAt k s (readFirst sa reg cnt s.bt)) r b) :
    ∃ t, execTimes (n + 1) i s = .next t ∧ Ended r b es s t := by
  rw [Nat.add_comm]
  exact (reaches_readFirst hc hp hf he).ends h

/-- A command whose entry is a read, to the end of phase 1, acknowledged and ready: its STOP is pending (R153). -/
theorem reaches_turned (hc : ReadCaller i k) (hp : accepted s) (hf : busFree s)
    (he : acceptStep i s = s.beginRead sa reg cnt (.cmd k)) {addrs txs : List Answer} {rdys : List Bool}
    (ha : s.env.addr = .ack :: addrs) (ht : s.env.tx = .ack :: txs) (hr : s.env.ready = true :: rdys) :
    Reaches i 5 (readTraceFirst sa reg) s
      ((readAt k s (readFirst sa reg cnt s.bt)).turned k addrs txs rdys) :=
  (reaches_readFirst hc hp hf he).trans (leads_turned hc (readReady_readFirst k sa reg cnt s) ha ht hr)

/-- The bus side of a command whose read has returned (R153). -/
def readDone (k : Site) (s : State) (sa : BitVec 7) (reg : Byte) (cnt : BitVec 16) (bytes : List Byte) (e : Env) :
    BusView :=
  { s.view with
    bt := { busAfter s.bt sa reg cnt with rm := false, bcnt := 0 },
    seq := { s.seq with rbuf := bytes, phase := .cmd k (.r .stop2) }, env := e }

/-- A command whose entry is a read, acknowledged and ready, to the step in which the read returns; ENV has completed
the STOP of phase 1 (R153). -/
theorem execTimes_read (hc : ReadCaller i k) (hp : accepted s) (hf : busFree s)
    (he : acceptStep i s = s.beginRead sa reg cnt (.cmd k)) {addrs txs : List Answer} {rdys : List Bool}
    {bytes rxs : List Byte} (ha : s.env.addr = .ack :: .ack :: addrs) (ht : s.env.tx = .ack :: txs)
    (hr : s.env.ready = true :: rdys) (hx : s.env.rx = bytes ++ rxs) (hb : bytes.length = cnt.toNat)
    (hn : 1 ≤ cnt.toNat) :
    ∃ t w, execTimes 5 i s = .next t ∧
      execTimes (cnt.toNat + 2) i (stopComplete t) = .next (cmdReply s.cfg i k (.ok bytes) w) ∧
      Moves (readTraceFirst sa reg ++ readTraceSecond sa bytes) s w ∧
      w.view = readDone k s sa reg cnt bytes
        { s.view.env with addr := addrs, tx := txs, rx := rxs, ready := rdys } := by
  have hne : bytes ≠ [] := by
    rintro rfl
    rw [← hb] at hn
    cases hn
  have hready := readReady_turned k (readAt k s (readFirst sa reg cnt s.bt)) (.ack :: addrs) txs rdys
  have hsecond := leads_received hc hready rfl hx hb.symm hne
  obtain ⟨t, hrun, hm, hv⟩ := reaches_turned hc hp hf he ha ht hr
  obtain ⟨u, hrun', hm', hv'⟩ := hsecond (stopComplete t) (by rw [State.view_stopComplete, hv])
  obtain ⟨w, hstop, hm'', hw⟩ := does_stop2.returns hc.calls rfl hv'
  refine ⟨t, w, hrun, ?_, ?_, hw⟩
  · rw [← hb]
    exact (execTimes_add hrun').trans hstop
  · exact hm.stopComplete.trans (hm'.trans hm'')

end

/-! ### RDB -/

section
variable {sa : BitVec 7} {reg : Byte} {cnt : BitVec 16} {s : State}

theorem readCaller_rdb (sa : BitVec 7) (reg : Byte) (cnt : BitVec 16) : ReadCaller (.rdb sa reg cnt) .rdb :=
  ⟨rfl, rfl, fun _ _ _ => rfl⟩

theorem acceptStep_rdb (hi : s.bt.initd = true) (hn : 1 ≤ cnt.toNat) (hc : cnt.toNat ≤ s.cfg.pbufSize) :
    acceptStep (.rdb sa reg cnt) s = s.beginRead sa reg cnt (.cmd .rdb) := by
  refine (if_neg (not_or.mpr ⟨?_, Nat.not_lt.mpr hc⟩)).trans (if_pos hi)
  rintro rfl
  cases hn

end

/-- Settles O27: both phases, and the bytes received are stored where the command ends. -/
theorem rdbStoresWhatItReceives : Obligations.RdbStoresWhatItReceives := by
  intro sa reg cnt bytes s addrs txs rxs rdys hp hi hf hn hc hb ha ht hr hx
  have hcall := readCaller_rdb sa reg cnt
  obtain ⟨t, w, hrun, hrun', hm, hw⟩ := execTimes_read hcall hp hf (acceptStep_rdb hi hn hc) ha ht hr hx hb hn
  have hend := execTimes_ending rfl hrun' (t := w.storePbuf bytes) (e := .succeed false)
  refine ⟨t, _, hrun, hend, rfl, rfl, congrArg (·.bt) hw, ?_, fun a => ?_, State.imgByte_congr hm.bus.img hm.bus.epoch⟩
  · rw [List.append_assoc]
    exact hm.traced
  · rw [← hb, ← State.pbufByte_congr hm.bus.pbuf hm.bus.epoch]
    exact w.pbufByte_storePbuf bytes a

/-- Settles O28: the poll fails and is recovered. -/
theorem rdbRecoversFromTimeout : Obligations.RdbRecoversFromTimeout := by
  intro sa reg cnt s addrs txs rdys hp hi hf hn hc ha ht hr
  have hcall := readCaller_rdb sa reg cnt
  obtain ⟨t, hrun, hend⟩ := readFirst_ends hcall hp hf (acceptStep_rdb hi hn hc)
    (ends_timeout hcall (readReady_readFirst .rdb sa reg cnt s) ha ht hr)
  exact ⟨t, hrun, hend.bus.result, hend.bus.busy, hend.bt, congrArg (·.devstat) hend.bus.ae, hend.traced,
    State.pbufByte_congr hend.bus.pbuf hend.bus.epoch⟩

theorem Ended.byNack {s t : State} {b : BusRegs} {es : List Event} (h : Ended (failedWith .busNack .ok) b es s t)
    (hb : b.nack = false ∧ b.stp = true ∧ b.bb = true) : endedByNack s t :=
  ⟨h.bus.result, h.bus.busy, h.bt ▸ hb, State.pbufByte_congr h.bus.pbuf h.bus.epoch⟩

theorem Ended.byArbitration {s t : State} {b : BusRegs} {es : List Event}
    (h : Ended (failedWith .arbLost .ok) b es s t)
    (hb : b.arbl = true ∧ b.bb = true ∧ b.stp = false ∧ b.mst = false ∧ b.trx = false) : endedByArbitration s t :=
  ⟨h.bus.result, h.bus.busy, h.bt ▸ hb, State.pbufByte_congr h.bus.pbuf h.bus.epoch⟩

/-- Settles O29: each of the three bytes of the read path refused, and each of them lost to another master. -/
theorem rdbDoesNotRetry : Obligations.RdbDoesNotRetry := by
  intro sa reg cnt s addrs txs rdys hp hi hf hn hc
  have hcall := readCaller_rdb sa reg cnt
  have hready := readReady_readFirst .rdb sa reg cnt s
  have haccept := acceptStep_rdb (sa := sa) (reg := reg) hi hn hc
  refine ⟨fun ha => ?_, fun ha ht => ?_, fun ha ht hr => ?_, fun ha => ?_, fun ha ht => ?_, fun ha ht hr => ?_⟩
  · obtain ⟨t, hrun, hend⟩ := readFirst_ends hcall hp hf haccept (ends_read_start_refused hcall hready ha)
    exact ⟨t, hrun, hend.byNack ⟨rfl, rfl, rfl⟩, hend.traced⟩
  · obtain ⟨t, hrun, hend⟩ := readFirst_ends hcall hp hf haccept (ends_read_reg_refused hcall hready ha ht)
    exact ⟨t, hrun, hend.byNack ⟨rfl, rfl, rfl⟩, hend.traced⟩
  · obtain ⟨t, u, hrun, -, hrun', hend⟩ := (reaches_turned hcall hp hf haccept ha ht hr).stopped_ends
      (ends_read_start_refused hcall (readReady_turned _ _ _ _ _) rfl)
    exact ⟨t, u, hrun, hrun', hend.byNack ⟨rfl, rfl, rfl⟩, hend.traced⟩
  · obtain ⟨t, hrun, hend⟩ := readFirst_ends hcall hp hf haccept (ends_read_start_lost hcall hready ha)
    exact ⟨t, hrun, hend.byArbitration ⟨rfl, rfl, rfl, rfl, rfl⟩, hend.traced⟩
  · obtain ⟨t, hrun, hend⟩ := readFirst_ends hcall hp hf haccept (ends_read_reg_lost hcall hready ha ht)
    exact ⟨t, hrun, hend.byArbitration ⟨rfl, rfl, rfl, rfl, rfl⟩, hend.traced⟩
  · obtain ⟨t, u, hrun, -, hrun', hend⟩ := (reaches_turned hcall hp hf haccept ha ht hr).stopped_ends
      (ends_read_start_lost hcall (readReady_turned _ _ _ _ _) rfl)
    exact ⟨t, u, hrun, hrun', hend.byArbitration ⟨rfl, rfl, rfl, rfl, rfl⟩, hend.traced⟩

/-! ### RDBIT -/

/-- A transaction of a command that fails on the bus gives the command its code, and nothing else is written (R278). -/
theorem exec_commandFails {i : Instr} {s : State} {k : Site} {x : XferAt} {c : Code} (hi : i.isCommand = true)
    (hr : ∀ d code t, cmdReply d i k (.fail code) t = t.goto (.ending (.fail code .ok))) (h : commandFails i s k x c) :
    ∃ t, exec i s = .next t ∧ goesToFailure c s t := by
  obtain ⟨hp, hk, -, hx⟩ := h
  obtain ⟨t, ht, hbus, -⟩ := xferFails_done hx
  have htmpb := xferStep_done_tmpb ht
  refine ⟨_, exec_cmd_done hi hk hp ht, ?_⟩
  rw [hr]
  exact ⟨rfl, State.pbufByte_congr hbus.pbuf hbus.epoch, htmpb, hbus.fp, hbus.ae⟩

/-- Settles O30: both phases of the one-byte read, the bit taken where the command ends; and the read's failures. -/
theorem rdbitReturnsTheBit : Obligations.RdbitReturnsTheBit := by
  intro sa reg bit s
  have hfails : ∀ (k : Site) d code t,
      cmdReply d (.rdbit sa reg bit) k (.fail code) t = t.goto (.ending (.fail code .ok)) := fun _ _ _ _ => rfl
  refine ⟨fun b addrs txs rxs rdys hp hi hf ha ht hr hx => ?_, fun k x c h => exec_commandFails rfl (hfails k) h⟩
  obtain ⟨t, w, hrun, hrun', hm, hw⟩ := execTimes_read (i := .rdbit sa reg bit) (k := .rdbit) (cnt := 1)
    ⟨rfl, rfl, hfails .rdbit⟩ hp hf (if_pos hi) ha ht hr (bytes := [b]) hx rfl le_rfl
  have hend := execTimes_ending rfl hrun' (t := { w with bt := { w.bt with tmpb := b } })
    (e := .succeed (fieldBit b bit.toNat))
  exact ⟨t, _, hrun, hend, rfl, rfl, congrArg (fun v : BusView => { v.bt with tmpb := b }) hw, hm.traced,
    State.pbufByte_congr hm.bus.pbuf hm.bus.epoch⟩

end Sys2Proof.Machine
end

section
/-! SUPPORT. The read-modify-write commands WRBF, WRBIT and DWBF (R156, R158, R159, R182), and the bits that FieldInsert
replaces. -/

namespace Sys2Proof.Machine

/-! ### FieldInsert and FieldBit (R156) -/

theorem getLsbD_lowOnes (width n : Nat) : (lowOnes width).getLsbD n = decide (n < 8 ∧ n < width) := by
  simp [lowOnes, BitVec.getLsbD_ofNat, Nat.testBit_two_pow_sub_one]

/-- The bits of a field shifted to its place. -/
theorem getLsbD_shifted {start width n : Nat} (h : start + width ≤ 8) (hn : n < 8) (value : Byte) :
    ((value &&& lowOnes width) <<< fieldShift start width).getLsbD n =
      (decide (8 - start - width ≤ n ∧ n < 8 - start) && value.getLsbD (n - (8 - start - width))) := by
  rw [BitVec.getLsbD_shiftLeft, BitVec.getLsbD_and, getLsbD_lowOnes, fieldShift, Bool.eq_iff_iff]
  simp only [Bool.and_eq_true, Bool.not_eq_true', decide_eq_true_eq, decide_eq_false_iff_not]
  constructor
  · rintro ⟨⟨-, hlow⟩, hv, -, hw⟩
    exact ⟨⟨by omega, by omega⟩, hv⟩
  · rintro ⟨⟨hlow, hhigh⟩, hv⟩
    exact ⟨⟨hn, by omega⟩, hv, by omega, by omega⟩

theorem getLsbD_fieldMask {start width n : Nat} (h : start + width ≤ 8) (hn : n < 8) :
    (fieldMask start width).getLsbD n = decide (8 - start - width ≤ n ∧ n < 8 - start) := by
  have hall : (BitVec.allOnes 8 &&& lowOnes width) = lowOnes width := BitVec.allOnes_and
  rw [fieldMask, ← hall, getLsbD_shifted h hn, BitVec.getLsbD_allOnes, Bool.and_eq_left_iff_imp]
  intro _
  exact decide_eq_true (by omega)

/-- Settles O32: inside the field the mask clears the old bits, and outside it keeps them. -/
theorem fieldInsertReplacesTheFieldOnly : Obligations.FieldInsertReplacesTheFieldOnly := by
  intro old value start width _ hle
  refine ⟨fun n hn => ?_, fun bit _ => rfl⟩
  rw [fieldInsert, BitVec.getLsbD_or, BitVec.getLsbD_and, BitVec.getLsbD_not, getLsbD_fieldMask hle hn,
    getLsbD_shifted hle hn, decide_eq_true hn]
  by_cases hin : 8 - start - width ≤ n ∧ n < 8 - start
  · rw [decide_eq_true hin, if_pos hin, Bool.not_true, Bool.and_false, Bool.and_false, Bool.false_or, Bool.true_and]
  · rw [decide_eq_false hin, if_neg hin, Bool.not_false, Bool.and_true, Bool.and_true, Bool.false_and, Bool.or_false]

/-! ### The read-modify-write commands -/

section
variable {i : Instr} {sa : BitVec 7} {reg : Byte} {start width : Nat} {value : Byte}

/-- A read-modify-write command with its operands (R158, R159, R182). -/
structure ReadModifyWrite (c : Cfg) (i : Instr) (sa : BitVec 7) (reg : Byte) (start width : Nat) (value : Byte) :
    Prop where
  command : i.isCommand = true
  owns : ∀ k, ownsSite i k = (k == .rmwRead || k == .rmwWrite)
  readReply : ∀ r s, cmdReply c i .rmwRead r s = rmwReadReply sa reg start width value r s
  writeReply : ∀ d k r s, k ≠ .rmwRead → cmdReply d i k r s = endWith r s
  fails : ∀ d k code s, cmdReply d i k (.fail code) s = s.goto (.ending (.fail code .ok))

theorem fieldLegal_one : ∀ bit : BitVec 3, fieldLegal bit 1 = true := by decide

/-- An accepted read-modify-write with a legal field begins its read (R158, R159, R182). -/
theorem acceptStep_rmw {s : State} (h : rmwOperands s.cfg i = some (sa, reg, start, width, value))
    (hl : operandsLegal s.cfg i = true) (hi : s.bt.initd = true) :
    acceptStep i s = s.beginRead sa reg 1 (.cmd .rmwRead) := by
  cases i
  case wrbit sa' reg' bit v =>
    cases h
    exact (if_neg (by rw [fieldLegal_one]; nofun)).trans (if_pos hi)
  case wrbf sa' reg' first w v =>
    cases h
    rw [operandsLegal_wrbf] at hl
    exact (if_neg (by simp [hl])).trans (if_pos hi)
  case dwbf reg' first w v =>
    cases h
    have hf : fieldLegal first w = true := (operandsLegal_wrbf s.cfg 0 reg first w value).symm.trans hl
    exact (if_neg (by simp [hf])).trans (if_pos hi)
  all_goals cases h

theorem readModifyWrite_of_operands {c : Cfg} (h : rmwOperands c i = some (sa, reg, start, width, value)) :
    ReadModifyWrite c i sa reg start width value := by
  cases i
  case wrbit | wrbf | dwbf =>
    cases h
    exact ⟨rfl, fun _ => rfl, fun _ _ => rfl, fun _ _ _ _ hk => if_neg hk, fun _ _ _ _ => ite_self _⟩
  all_goals cases h

end

/-- The bus side between the two transactions of a read-modify-write: TMPB holds the byte read, and the write-back of
the new byte begins (R159). -/
def BusView.writeBack (v : BusView) (sa : BitVec 7) (reg old new : Byte) : BusView :=
  { v with
    bt := writeAttempt { v.bt with sa := sa, rega := reg, cnt := 1, retry := false, tmpb := old },
    seq := { v.seq with txbuf := [new], phase := .cmd .rmwWrite (.w .start) } }

theorem State.view_writeBack (s : State) (sa : BitVec 7) (reg : Byte) (start width : Nat) (value old : Byte) :
    (s.writeBack sa reg start width value [old] (.cmd .rmwWrite)).view =
      s.view.writeBack sa reg old (fieldInsert old start width value) := rfl

/-- A read-modify-write that is acknowledged and ready, to the end of its command; ENV completes the two STOPs before
the last (R159). -/
theorem execTimes_rmw {i : Instr} {sa : BitVec 7} {reg : Byte} {start width : Nat} {value : Byte} {s : State}
    (h : rmwOperands s.cfg i = some (sa, reg, start, width, value)) {b : Byte} {addrs txs : List Answer}
    {rxs : List Byte} {rdys : List Bool} (hl : operandsLegal s.cfg i = true) (hp : accepted s)
    (hi : s.bt.initd = true) (hf : busFree s) (ha : s.env.addr = .ack :: .ack :: .ack :: addrs)
    (ht : s.env.tx = .ack :: .ack :: .ack :: txs) (hr : s.env.ready = true :: rdys) (hx : s.env.rx = b :: rxs) :
    ∃ t u v, execTimes 5 i s = .next t ∧ execTimes 3 i (stopComplete t) = .next u ∧
      execTimes 5 i (stopComplete u) = .next v ∧
      Ended (succeededWith false) { busAfter s.bt sa reg 1 with rm := true, bcnt := 0, retry := false, tmpb := b }
        (readTraceFirst sa reg ++ readTraceSecond sa [b] ++ writeTrace sa reg [fieldInsert b start width value])
        s v := by
  have hcmd := readModifyWrite_of_operands h
  have hread : ReadCaller i .rmwRead := ⟨hcmd.command, hcmd.owns _, fun d => hcmd.fails d _⟩
  have hwrite : WriteCaller i .rmwWrite := ⟨hcmd.command, hcmd.owns _, fun d r t => hcmd.writeReply d _ r t nofun⟩
  obtain ⟨t, w, hrun, hrun', hm, hw⟩ := execTimes_read hread hp hf (acceptStep_rmw h hl hi) ha ht hr (bytes := [b]) hx
    rfl le_rfl
  rw [hcmd.readReply] at hrun'
  have hback : Moves [] w (w.writeBack sa reg start width value [b] (.cmd .rmwWrite)) :=
    ⟨OnlyBus.writeBack .., (List.append_nil _).symm⟩
  have hview := w.view_writeBack sa reg start width value b
  rw [hw] at hview
  have hends : ∀ e : Env, e.addr = .ack :: addrs → e.tx = .ack :: .ack :: txs →
      Ends i 5 (writeTrace sa reg [fieldInsert b start width value])
        ((readDone .rmwRead s sa reg 1 [b] e).writeBack sa reg b (fieldInsert b start width value)).stopComplete
        (succeededWith false) { busAfter s.bt sa reg 1 with rm := true, bcnt := 0, retry := false, tmpb := b } :=
    fun e ha ht => ends_acknowledged (n := 1) hwrite ⟨rfl, rfl, rfl⟩ ha ht rfl
  obtain ⟨v, hrun'', hend⟩ := hends _ rfl rfl (stopComplete _) (congrArg BusView.stopComplete hview)
  exact ⟨t, _, v, hrun, hrun', hrun'', (hm.trans hback).stopComplete.ended hend⟩

/-- Settles O31: the read, the write-back of FieldInsert of the byte read, and the failures of either. -/
theorem readModifyWriteCompletes : Obligations.ReadModifyWriteCompletes := by
  intro i sa reg start width value s h
  have hcmd := readModifyWrite_of_operands h
  refine ⟨fun b addrs txs rxs rdys hl hp hi hf ha ht hr hx => ?_, fun k x c hfail =>
    exec_commandFails hcmd.command (fun d => hcmd.fails d k) hfail⟩
  obtain ⟨t, u, v, ht, hu, hv, hend⟩ := execTimes_rmw h hl hp hi hf ha ht hr hx
  exact ⟨t, u, v, ht, hu, hv, hend.bus.result, hend.bus.busy, hend.bt, hend.traced,
    State.pbufByte_congr hend.bus.pbuf hend.bus.epoch⟩

end Sys2Proof.Machine
end

section
/-! SUPPORT. The first steps of commands: INIT, and the readiness gates of the others (R140 to R142, R231, R240). -/

namespace Sys2Proof.Machine

/-! ### INIT -/

/-- Settles O21: one step resets and initialises the controller, and the next ends the command. -/
theorem initResetsInitialisesAndSucceeds : Obligations.InitResetsInitialisesAndSucceeds := by
  intro s hp
  have hend := execTimes_ending (i := .init) (t := s.busReset.busInit) (e := .succeed false) rfl
    (execTimes_one (exec_accepted hp rfl))
  rw [hend]
  have htrace : s.trace ++ [Event.reset] ++ [Event.init] = s.trace ++ [.reset, .init] := List.append_assoc ..
  rw [← htrace]
  rfl

/-! ### Commands that are not ready -/

theorem isCommand_of_checksInit {i : Instr} (h : checksInit i = true) : i.isCommand = true := by
  cases i
  case recData | recSpcInten => cases h
  all_goals rfl

/-- With legal operands the check that comes next is CheckInit (R121, R140). -/
theorem acceptStep_legal {i : Instr} {s : State} (hc : checksInit i = true) (hl : operandsLegal s.cfg i = true) :
    ∃ go, acceptStep i s = s.ifInitd go := by
  cases i
  case wrb sa reg cnt => exact ⟨_, if_neg (by simpa [operandsLegal] using hl)⟩
  case rdb sa reg cnt =>
    exact ⟨_, if_neg (mt (operandsLegal_rdb s.cfg sa reg cnt).mpr (ne_false_of_eq_true hl))⟩
  case wrbit sa reg bit v => exact ⟨_, if_neg (by rw [fieldLegal_one]; nofun)⟩
  case wrbf sa reg start width value =>
    rw [operandsLegal_wrbf] at hl
    exact ⟨_, if_neg (by simp [hl])⟩
  case dwbf reg start width value =>
    have hf : fieldLegal start width = true := (operandsLegal_wrbf s.cfg 0 reg start width value).symm.trans hl
    exact ⟨_, if_neg (by simp [hf])⟩
  case upblk v bank offs size src =>
    rw [operandsLegal_upblk, Bool.and_eq_true] at hl
    obtain ⟨himg, hdmem⟩ := hl
    exact ⟨_, (if_neg (by simp [himg])).trans (if_neg (by simp [hdmem]))⟩
  case upimg v len src =>
    have himg : insideImg s.cfg src.toNat len.toNat = true := hl
    exact ⟨_, if_neg (by simp [himg])⟩
  case rdbit | dwb | selbank | setaddr => unfold acceptStep; exact ⟨_, rfl⟩
  all_goals cases hc

theorem acceptStep_notInitialised {i : Instr} {s : State} (hc : checksInit i = true)
    (hl : operandsLegal s.cfg i = true) (h : s.bt.initd = false) : acceptStep i s = s.fail .notReady .ok := by
  obtain ⟨go, hgo⟩ := acceptStep_legal hc hl
  rw [hgo, State.ifInitd, h]
  rfl

/-- With a legal operand the check of a sample command that comes next is DEVSTAT's (R231, R240, R250). -/
theorem acceptStep_notSampling {i : Instr} {s : State} (hi : readsSample i = true)
    (hl : operandsLegal s.cfg i = true) (h : s.ae.devstat ≠ .dmpReady) : acceptStep i s = s.fail .notReady .ok := by
  cases i
  case rdsmp => exact if_pos h
  case rdavg n => exact (if_neg (by simpa [operandsLegal] using hl)).trans (if_pos h)
  all_goals cases hi

/-- Settles O20: the readiness gate of a command is its next check after its operands. -/
theorem commandsThatAreNotReadyAreRefused : Obligations.CommandsThatAreNotReadyAreRefused := by
  intro i s hp hl h
  rcases h with ⟨hc, hi⟩ | ⟨hs, hd⟩
  · rw [exec_accepted hp (isCommand_of_checksInit hc), acceptStep_notInitialised hc hl hi]
    rfl
  · rw [exec_accepted hp (isCommand_of_readsSample hs), acceptStep_notSampling hs hl hd]
    rfl

end Sys2Proof.Machine
end

section
/-! SUPPORT. The record REC_SPC_INTEN, one `BT_Write` at the device address inside an image (R209). -/

namespace Sys2Proof.Machine

/-- The bus side of REC_SPC_INTEN at a place of its one write (R209). -/
def intEnableAt (s : State) (a : WriteAt) (b : BusRegs) (left : List Byte) (addrs txs : List Answer) : BusView :=
  { s.view with
    bt := b, seq := { s.seq with txbuf := left, phase := .record .intEnable (.w a) },
    env := { s.view.env with addr := addrs, tx := txs } }

/-- The write of REC_SPC_INTEN, acknowledged, from its Start to the step before its STOP (R152, R209). -/
theorem leads_intEnable {bank offs : Byte} {s : State} {b : BusRegs} {v : Byte} {addrs txs : List Answer}
    (hf : busHeld b = false) (hm : b.rm = true) :
    Leads (.recSpcInten bank offs) 3 (sentTrace b.sa b.rega [v])
      (intEnableAt s .start b [v] (.ack :: addrs) (.ack :: .ack :: txs))
      (intEnableAt s .data (startModes .write b) [] addrs txs) := by
  have hcall : Calls (.recSpcInten bank offs) (.record .intEnable) _ := calls_record rfl rfl
  have hstart := (does_start (x := .w .start) (v := intEnableAt s .start b [v] (.ack :: addrs) (.ack :: .ack :: txs))
    rfl hf rfl).leads hcall rfl
  have hreg := (does_write_reg (v := intEnableAt s .reg (startModes .write b) [v] addrs (.ack :: .ack :: txs))
    hm rfl).leads hcall rfl
  have hbyte := (does_payload (v := intEnableAt s .data (startModes .write b) [v] addrs (.ack :: txs))
    hm rfl rfl).leads hcall rfl
  exact (hstart.trans hreg).trans hbyte

/-- Settles O41: the one write of a record, acknowledged, and its failures. -/
theorem recSpcIntenEnablesInterrupts : Obligations.RecSpcIntenEnablesInterrupts := by
  intro bank offs s
  have hcall : Calls (.recSpcInten bank offs) (.record .intEnable) _ := calls_record rfl rfl
  refine ⟨fun addrs txs hp hf ha ht => ?_, fun a c hp hx => ?_⟩
  · have henter : execTimes 1 (.recSpcInten bank offs) s = .next _ := execTimes_one (exec_image hp (.inr rfl))
    have hview : (imageStep (.recSpcInten bank offs) s).view = intEnableAt s .start
        (imageStep (.recSpcInten bank offs) s).bt [s.cfg.dev.intEnableValue] (.ack :: addrs) (.ack :: .ack :: txs) := by
      rw [intEnableAt, ← ha, ← ht]
      rfl
    obtain ⟨t, hrun, hm, hv⟩ := leads_intEnable (b := (imageStep (.recSpcInten bank offs) s).bt)
      (busHeld_of_busFree hf) rfl _ hview
    obtain ⟨u, hstop, hm', -⟩ := (does_sent rfl).returns hcall rfl hv
    have hmoves := hm.trans hm'
    refine ⟨_, (execTimes_add henter).trans ((execTimes_add hrun).trans hstop), rfl, ?_, hmoves.traced⟩
    exact congrArg (fun p : ProgRegs => { p with ipos := p.ipos + 4 }) hmoves.bus.fp
  · obtain ⟨t, ht, hbus, -⟩ := xferFails_done hx
    exact ⟨_, (hcall s _ hp).trans (congrArg _ (State.xfer_done ht)), rfl, hbus.fp⟩

end Sys2Proof.Machine
end

section
/-! SUPPORT. The commands of the AcquisitionEngine where they end: the samples that RDSMP and RDAVG commit (R240, R250),
and what SETUP makes of DEVSTAT (R231 to R233). -/

namespace Sys2Proof.Machine

/-! ### The sample commands -/

/-- The state in which a sample read has returned: its STOP is requested, and the raw temperature and the staged sample
are there (R245, R246). -/
def sampleStaged (s : State) (rawt : BitVec 16) : State :=
  { s.stop with ae := { s.ae with rawt := rawt, stg := stageSample s.cfg s.ae.raw rawt } }

/-- The last step of a sample read, the STOP of its temperature read (R245). -/
theorem exec_sample_temp {i : Instr} {s : State} {h l : Byte} (hi : readsSample i = true)
    (hp : s.seq.phase = .cmd .temp (.r .stop2)) (hb : s.seq.rbuf = [h, l]) :
    exec i s = .next (sampleEnd i none (sampleStaged s (h ++ l))) :=
  exec_sample_done hi rfl hp (xferStep_stop2 hb)

/-- Settles O46: the staged sample is committed. -/
theorem rdsmpCommitsThePhysicalSample : Obligations.RdsmpCommitsThePhysicalSample := by
  intro s h l hp hb
  exact ⟨_, exec_sample_temp rfl hp hb, ⟨rfl, rfl, rfl, rfl, rfl⟩, rfl, rfl, rfl,
    fun α m hm => stageSample_holdsPhysical hm s.cfg s.ae.raw (h ++ l)⟩

theorem fields_zipWith (f : Num → Num → Num) (a b : Sample) :
    (Sample.zipWith f a b).fields = List.zipWith f a.fields b.fields := rfl

theorem numEval_accAdd {α : Type} {m : NumModel α} (hm : m.Lawful) (acc stg : Sample) :
    (accAdd acc stg).fields.map (numEval m) =
      List.zipWith m.add (acc.fields.map (numEval m)) (stg.fields.map (numEval m)) := by
  rw [accAdd, fields_zipWith, List.map_zipWith, List.zipWith_map]
  simp only [numEval_numAdd hm]

theorem numEval_accMean {α : Type} {m : NumModel α} (hm : m.Lawful) (acc : Sample) (n : BitVec 16) :
    (accMean acc n).fields.map (numEval m) = acc.fields.map fun a => m.div (numEval m a) (m.ofInt n.toNat) := by
  simp only [accMean, Sample.zipWith, Sample.const, Sample.fields, List.map_cons, List.map_nil, numEval_numDiv hm,
    numEval]

/-- The sums of RDAVG after a sample (R250). -/
def addSample (s : State) : State :=
  { s with ae := { s.ae with acc := accAdd s.ae.acc s.ae.stg, avgi := s.ae.avgi + 1 } }

theorem averageSampleEnd_more {s : State} (h : (s.ae.avgi + 1).toNat < s.ae.avgn.toNat) :
    averageSampleEnd none s = fifoWait (addSample s) := if_pos h

theorem averageSampleEnd_last {s : State} (h : ¬ (s.ae.avgi + 1).toNat < s.ae.avgn.toNat) :
    averageSampleEnd none s = commitSample (accMean (addSample s).ae.acc s.ae.avgn) (addSample s) := if_neg h

/-- Settles O47: the registers of RDAVG as it starts, and after each sample. -/
theorem rdavgSumsAndDivides : Obligations.RdavgSumsAndDivides := by
  intro n s
  refine ⟨fun hp hn hd => ?_, fun h l hp hb hle => ?_⟩
  · have henter : acceptStep (.rdavg n) s = averageEnter n s := (if_neg hn).trans (if_neg (not_not.mpr hd))
    exact ⟨_, (exec_accepted hp rfl).trans (congrArg _ henter), ⟨rfl, rfl⟩, rfl, rfl,
      beginsDevRead_beginDevRead rfl _ _ 2⟩
  · have havgi : (s.ae.avgi + 1).toNat = s.ae.avgi.toNat + 1 := by bv_omega
    have hexec := exec_sample_temp (i := .rdavg n) rfl hp hb
    by_cases hmore : s.ae.avgi.toNat + 1 < s.ae.avgn.toNat
    · have hend := averageSampleEnd_more (s := sampleStaged s (h ++ l)) (havgi ▸ hmore)
      exact ⟨_, hexec.trans (congrArg _ hend), ⟨rfl, rfl, rfl, rfl, rfl⟩, havgi, rfl,
        fun α m hm => ⟨stageSample_holdsPhysical hm s.cfg s.ae.raw (h ++ l), numEval_accAdd hm s.ae.acc _⟩,
        fun _ => ⟨beginsDevRead_beginDevRead rfl _ _ 2, rfl, rfl⟩, fun hlast => absurd hlast hmore.ne⟩
    · have hend := averageSampleEnd_last (s := sampleStaged s (h ++ l)) (havgi ▸ hmore)
      exact ⟨_, hexec.trans (congrArg _ hend), ⟨rfl, rfl, rfl, rfl, rfl⟩, havgi, rfl,
        fun α m hm => ⟨stageSample_holdsPhysical hm s.cfg s.ae.raw (h ++ l), numEval_accAdd hm s.ae.acc _⟩,
        fun hlt => absurd hlt hmore, fun _ => ⟨rfl, rfl, fun α m hm => numEval_accMean hm _ _⟩⟩

/-! ### SETUP -/

theorem exec_identity_done {s u : State} {x : XferAt} {r : Reply} (hp : s.seq.phase = .cmd .identity x)
    (hx : xferStep s x = .done r u) : exec .setup s = .next ((identityReply r u).elim setupIdentified) :=
  exec_cmd_done rfl rfl hp hx

/-- The state of the identity check after an attempt that has failed (R233). -/
def countAttempt (s : State) : State := { s with ae := { s.ae with idtry := s.ae.idtry + 1 } }

/-- An attempt that has failed with others left begins the next one (R233). -/
theorem identityReply_again {r : Reply} {s : State} (hr : identityMatches s.cfg r = false)
    (h : (s.ae.idtry + 1).toNat ≠ s.cfg.idRetryMax) : identityReply r s = .run (identityRead (countAttempt s)) := by
  rw [identityReply, hr]
  exact if_neg h

/-- The last attempt that fails ends the identity check with its cause (R233). -/
theorem identityReply_last {r : Reply} {s : State} (hr : identityMatches s.cfg r = false)
    (h : (s.ae.idtry + 1).toNat = s.cfg.idRetryMax) :
    identityReply r s = .ret (some (identityCause r)) (countAttempt s) := by
  rw [identityReply, hr]
  exact if_pos h

/-- An attempt of the identity check that fails, on the bus or by its byte, as its reply (R233). -/
theorem identity_fails {s : State} {a : ReadAt} {cause : Code}
    (h : xferFails s (.r a) cause ∨ a = .stop2 ∧ cause = .ok ∧ ∃ b, s.seq.rbuf = [b] ∧ b ≠ s.cfg.idExpected) :
    ∃ r u, xferStep s (.r a) = .done r u ∧ OnlyBus s u ∧ identityMatches u.cfg r = false ∧ identityCause r = cause ∧
      (a = .stop2 → stopRequested s u) := by
  rcases h with hx | ⟨rfl, rfl, b, hb, hne⟩
  · obtain ⟨u, hu, hbus, -⟩ := xferFails_done hx
    refine ⟨_, u, hu, hbus, rfl, rfl, ?_⟩
    rintro rfl
    cases hx
  · exact ⟨_, _, xferStep_stop2 hb, s.stop_onlyBus, beq_eq_false_iff_ne.mpr hne, rfl, fun _ => stopRequested_stop s⟩

/-- Settles O42: the entry of SETUP, the attempts of its identity check, and the return value of its upload. -/
theorem setupMovesDeviceStatus : Obligations.SetupMovesDeviceStatus := by
  intro s
  refine ⟨fun hp => ?_, fun b hp hb hm => ?_, fun a cause hp hmax hfail => ⟨fun hleft => ?_, fun hlast => ?_⟩,
    fun hp => ⟨_, exec_imageDone hp rfl, rfl, rfl⟩, fun c hp => ⟨_, exec_imageDone hp rfl, rfl, rfl⟩⟩
  · exact ⟨_, exec_accepted hp rfl, List.append_assoc .., rfl, rfl, beginsDevRead_beginDevRead rfl _ _ 1⟩
  · have hmatch : identityReply (.ok [b]) s.stop = .ret none s.stop := if_pos (beq_iff_eq.mpr hm)
    have hexec := exec_identity_done hp (xferStep_stop2 hb)
    rw [hmatch] at hexec
    have hpos : (s.cfg.dmpImgBase.setWidth 17).toNat = s.cfg.dmpImgBase.toNat := by bv_omega
    have hend : (s.cfg.dmpImgBase.setWidth 17 + s.cfg.dmpImgLen.setWidth 17).toNat =
        s.cfg.dmpImgBase.toNat + s.cfg.dmpImgLen.toNat := by bv_omega
    exact ⟨_, hexec, ⟨rfl, rfl, rfl, rfl, rfl⟩, rfl, rfl, hpos, hend, rfl⟩
  · obtain ⟨r, u, hx, hbus, hr, -, hstop⟩ := identity_fails hfail
    have hidtry : (s.ae.idtry + 1).toNat = s.ae.idtry.toNat + 1 := by bv_omega
    have hreply := identityReply_again hr (by rw [hbus.ae, hbus.cfg]; omega)
    have hexec := exec_identity_done hp hx
    rw [hreply] at hexec
    have hae : (identityRead (countAttempt u)).ae = { s.ae with idtry := s.ae.idtry + 1 } :=
      congrArg (fun ae : AcqRegs => { ae with idtry := ae.idtry + 1 }) hbus.ae
    refine ⟨_, hexec, (congrArg (·.idtry.toNat) hae).trans hidtry, hae, fun ha => hstop ha, ?_⟩
    rw [← hbus.cfg]
    exact beginsDevRead_beginDevRead (u := countAttempt u) hbus.cfg .identity _ 1
  · obtain ⟨r, u, hx, hbus, hr, hcause, hstop⟩ := identity_fails hfail
    have hidtry : (s.ae.idtry + 1).toNat = s.ae.idtry.toNat + 1 := by bv_omega
    have hreply := identityReply_last hr (by rw [hbus.ae, hbus.cfg]; omega)
    have hexec := exec_identity_done hp hx
    rw [hreply, hcause] at hexec
    have hae : ((countAttempt u).setDevstat .disconnected).ae =
        { s.ae with idtry := s.ae.idtry + 1, devstat := .disconnected } :=
      congrArg (fun ae : AcqRegs => { ae with idtry := ae.idtry + 1, devstat := .disconnected }) hbus.ae
    exact ⟨_, hexec, (congrArg (·.idtry.toNat) hae).trans hidtry, hae, fun ha => hstop ha, rfl⟩

end Sys2Proof.Machine
end

section
/-! SUPPORT. The ends of uploads and of images: a block upload that returns a failure (R202, R208), and the head of the
record loop where no record stands (R206, R210, R211). -/

namespace Sys2Proof.Machine

/-! ### A block upload that fails -/

/-- The upload that `i` runs has failed with cause `c`: UPBLK goes to FW_UPLOAD_FAILED; in a data record the image
returns the cause, and UPIMG or SETUP goes to its failure with it, the registers kept (R203, R206, R207, R232). -/
def uploadFailed (i : Instr) (here : Site → XferAt → Phase) (c : Code) (t : State) : Prop :=
  (here = .cmd → t.seq.phase = .ending (.fail .fwUploadFailed c)) ∧
  ((∃ b o d, i = .recData b o d) → t.seq.phase = .imageDone (some c) ∧
    (∀ v len src, ∃ u, exec (.upimg v len src) t = .next u ∧ u.seq.phase = .ending (.fail .fwUploadFailed c) ∧
      u.fp = t.fp) ∧
    ∃ u, exec .setup t = .next u ∧ u.seq.phase = .ending (.fail .dmpInitFailed c) ∧ u.fp = t.fp)

theorem uploadEnd_failed {i : Instr} {here : Site → XferAt → Phase} (h : runsUpload i here) (c : Code) (u : State) :
    uploadFailed i here c (uploadEnd i (some c) u) := by
  rcases h with ⟨⟨v, b, o, n, p, rfl⟩, rfl⟩ | ⟨⟨b, o, d, rfl⟩, rfl⟩
  · exact ⟨fun _ => rfl, nofun⟩
  · exact ⟨fun he => (nomatch congrFun₂ he .upData (.w .data)), fun _ => ⟨rfl,
      fun _ _ _ => ⟨_, exec_imageDone rfl rfl, rfl, rfl⟩, _, exec_imageDone rfl rfl, rfl, rfl⟩⟩

theorem uploadEnd_fp_failed {i : Instr} {here : Site → XferAt → Phase} (h : runsUpload i here) (c : Code) (u : State) :
    (uploadEnd i (some c) u).fp = u.fp := by
  rcases h with ⟨⟨v, b, o, n, p, rfl⟩, rfl⟩ | ⟨⟨b, o, d, rfl⟩, rfl⟩ <;> rfl

theorem uploadEnd_quiet {i : Instr} {here : Site → XferAt → Phase} (h : runsUpload i here) (r : Option Code)
    (u : State) : Quiet u (uploadEnd i r u) := by
  rcases h with ⟨⟨v, b, o, n, p, rfl⟩, rfl⟩ | ⟨⟨b, o, d, rfl⟩, rfl⟩
  · exact endUpload_quiet _ r u
  · exact recordEnd_quiet _ r u

/-- A chunk that has been read back otherwise than IMG holds it ends the upload (R202). -/
theorem exec_chunk_mismatch {i : Instr} {here : Site → XferAt → Phase} {s : State} (h : runsUpload i here)
    (hp : s.seq.phase = here .upVRead (.r .stop2))
    (hne : s.seq.rbuf ≠ s.imgBytes s.fp.srcptr.toNat s.fp.chunklen.toNat) :
    exec i s = .next (uploadEnd i (some .verifyMismatch) (s.chunkStopped (storeVbuf s.seq.rbuf s.fp.vbuf))) := by
  have hreply : blockReply here .upVRead (.ok s.seq.rbuf) s.stop =
      .ret (some .verifyMismatch) (s.chunkStopped (storeVbuf s.seq.rbuf s.fp.vbuf)) := if_neg hne
  rw [exec_upload_done h rfl hp (xferStep_stop2 rfl), hreply]
  rfl

/-- Settles O38: the comparison of the read-back, and the reply of a transaction that has failed. -/
theorem upblkVerifyMismatchFails : Obligations.UpblkVerifyMismatchFails := by
  intro i here k x c s h hp failed
  refine ⟨?_, fun hk _ hx => ?_⟩
  · rintro rfl rfl hne rfl
    exact ⟨_, exec_chunk_mismatch h hp hne, uploadEnd_failed h _ _,
      (uploadEnd_quiet h _ _).stopRequested (stopRequested_stop s), uploadEnd_fp_failed h _ _⟩
  · obtain ⟨u, hu, hbus, -⟩ := xferFails_done hx
    exact ⟨_, exec_upload_done h hk hp hu, uploadEnd_failed h c u, (uploadEnd_fp_failed h c u).trans hbus.fp⟩

/-! ### The head of the record loop -/

theorem imageStep_of_runsImage {i : Instr} (h : runsImage i = true) (s : State) :
    imageStep i s = s.goto (.imageDone (imageReturn s)) := by
  cases i
  case upimg | setup => rfl
  all_goals cases h

section
variable {s : State}

theorem imageReturn_ended (h : s.fp.iend.toNat ≤ s.fp.ipos.toNat) : imageReturn s = none := if_pos h

theorem imageReturn_badSpecialOpcode {op : Byte} (h : s.fp.ipos.toNat < s.fp.iend.toNat)
    (he : fetchRecord s = .error (.badSpecialOpcode op)) : imageReturn s = some .badSpecialOpcode := by
  rw [imageReturn, if_neg (Nat.not_le.mpr h), he]

theorem imageReturn_malformed {e : DecodeError} (h : s.fp.ipos.toNat < s.fp.iend.toNat)
    (he : fetchRecord s = .error e) (hn : ¬ ∃ op, e = .badSpecialOpcode op) :
    imageReturn s = some .imageMalformed := by
  rw [imageReturn, if_neg (Nat.not_le.mpr h), he]
  cases e
  case badSpecialOpcode op => exact absurd ⟨op, rfl⟩ hn
  all_goals rfl

end

/-! ### The bytes at IPOS that are no record -/

theorem State.imgBytes_succ (s : State) (a n : Nat) : s.imgBytes a (n + 1) = s.imgByte a :: s.imgBytes (a + 1) n := by
  simp only [State.imgBytes, List.range_succ_eq_map, List.map_cons, List.map_map, Nat.add_zero]
  exact congrArg _ (List.map_congr_left fun k _ => congrArg s.imgByte (by omega))

/-- Fewer bytes than a header (R211). -/
theorem decodeRecord_headerCutShort {bytes : List Byte} (h : bytes.length < 3) :
    decodeRecord bytes = .error .headerCutShort := by
  rcases bytes with _ | ⟨b, _ | ⟨o, _ | ⟨l, rest⟩⟩⟩
  case cons.cons.cons => simp only [List.length_cons] at h; omega
  all_goals rfl

section
variable {s : State} {a n : Nat}

/-- The header of a special record without its opcode (R211). -/
theorem decodeRecord_opcodeCutShort (hl : s.imgByte (a + 2) = 0) :
    decodeRecord (s.imgBytes a 3) = .error .opcodeCutShort := by
  simp only [State.imgBytes_succ, decodeRecord, hl, if_true]
  rfl

/-- The header of a special record with another opcode (R210). -/
theorem decodeRecord_badSpecialOpcode (hn : 4 ≤ n) (hl : s.imgByte (a + 2) = 0) (ho : s.imgByte (a + 3) ≠ 0x01) :
    decodeRecord (s.imgBytes a n) = .error (.badSpecialOpcode (s.imgByte (a + 3))) := by
  obtain ⟨m, rfl⟩ := Nat.exists_eq_add_of_le' hn
  simp only [State.imgBytes_succ, decodeRecord, hl, if_true]
  exact if_neg ho

/-- The header of a data record without all its data (R211). -/
theorem decodeRecord_dataCutShort (hn : 3 ≤ n) (hl : s.imgByte (a + 2) ≠ 0)
    (hd : n < 3 + (s.imgByte (a + 2)).toNat) : decodeRecord (s.imgBytes a n) = .error .dataCutShort := by
  obtain ⟨m, rfl⟩ := Nat.exists_eq_add_of_le' hn
  have hrest : (s.imgBytes (a + 1 + 1 + 1) m).length < (s.imgByte (a + 2)).toNat := by
    rw [State.length_imgBytes]
    omega
  simp only [State.imgBytes_succ, decodeRecord]
  exact (if_neg hl).trans (if_pos hrest)

/-- The bytes that are fetched are all that are left, up to the longest record (R123, R206). -/
theorem fetchRecord_eq (hn : s.fp.iend.toNat - s.fp.ipos.toNat = n) :
    fetchRecord s = decodeRecord (s.imgBytes s.fp.ipos.toNat (min n 258)) := by
  rw [← hn]
  rfl

/-- Bytes that are left are fewer than those of the record that begins with them (R211). -/
theorem fetchRecord_cutShort (hn : s.fp.iend.toNat - s.fp.ipos.toNat = n)
    (h : n < 3 ∨ s.imgByte (s.fp.ipos.toNat + 2) = 0 ∧ n < 4 ∨
      s.imgByte (s.fp.ipos.toNat + 2) ≠ 0 ∧ n < 3 + (s.imgByte (s.fp.ipos.toNat + 2)).toNat) :
    ∃ e, fetchRecord s = .error e ∧ ¬ ∃ op, e = .badSpecialOpcode op := by
  have hlen : (s.imgByte (s.fp.ipos.toNat + 2)).toNat < 256 := BitVec.isLt _
  have hmin : min n 258 = n := by omega
  rw [fetchRecord_eq hn, hmin]
  by_cases hhead : n < 3
  · exact ⟨_, decodeRecord_headerCutShort (by rwa [State.length_imgBytes]), nofun⟩
  · rcases h with h | ⟨hz, h⟩ | ⟨hz, h⟩
    · exact absurd h hhead
    · obtain rfl : n = 3 := by omega
      exact ⟨_, decodeRecord_opcodeCutShort hz, nofun⟩
    · exact ⟨_, decodeRecord_dataCutShort (Nat.le_of_not_lt hhead) hz h, nofun⟩

end

/-! ### UPIMG (R207) -/

theorem acceptStep_upimg_legal {v : BitVec 1} {len src : BitVec 16} {s : State} (hi : s.bt.initd = true)
    (hl : src.toNat + len.toNat ≤ s.cfg.imgSize) :
    acceptStep (.upimg v len src) s = imageEnter src len (v == 1) s := by
  have himg : insideImg s.cfg src.toNat len.toNat = true := decide_eq_true hl
  exact (if_neg (by rw [himg]; nofun)).trans (if_pos hi)

/-- Settles O39: the entry of UPIMG, the return value at the head of the record loop, and what UPIMG makes of it. -/
theorem upimgEntersAndLeavesItsImage : Obligations.UpimgEntersAndLeavesItsImage := by
  refine ⟨fun v len src s => ⟨fun hp hinit hl => ?_, fun hp => exec_imageDone hp rfl,
    fun c hp => exec_imageDone hp rfl⟩, fun i s hi hp => ?_⟩
  · have hpos : (src.setWidth 17).toNat = src.toNat := by bv_omega
    have hend : (src.setWidth 17 + len.setWidth 17).toNat = src.toNat + len.toNat := by bv_omega
    exact ⟨_, (exec_accepted hp rfl).trans (congrArg _ (acceptStep_upimg_legal hinit hl)), rfl, hpos, hend, rfl, rfl⟩
  · intro left len opcode
    rw [exec_image hp (.inl hi), imageStep_of_runsImage hi]
    have hmore : 1 ≤ left → s.fp.ipos.toNat < s.fp.iend.toNat := fun h => Nat.lt_of_sub_pos h
    refine ⟨fun h => ?_, fun h hshort => ?_, fun h hz hop => ?_, fun h e he => ?_⟩
    · rw [imageReturn_ended (Nat.le_of_sub_eq_zero h)]
    · obtain ⟨e, he, hn⟩ := fetchRecord_cutShort rfl hshort
      rw [imageReturn_malformed (hmore h) he hn]
    · have he : fetchRecord s = .error (.badSpecialOpcode opcode) :=
        (fetchRecord_eq rfl).trans (decodeRecord_badSpecialOpcode (le_min h (by decide)) hz hop)
      rw [imageReturn_badSpecialOpcode (hmore (by omega)) he]
    · by_cases hbad : ∃ op, e = .badSpecialOpcode op
      · rw [if_pos hbad]
        obtain ⟨op, rfl⟩ := hbad
        rw [imageReturn_badSpecialOpcode (hmore h) he]
      · rw [if_neg hbad, imageReturn_malformed (hmore h) he hbad]

end Sys2Proof.Machine
end

section
/-! SUPPORT. A whole UPBLK as a run of the machine (R202 to R204): runs with no move scheduled and every byte
acknowledged, one write of a chunk, one chunk, and the chunks of a block in turn. -/

namespace Sys2Proof.Machine

/-! ### Runs of the machine -/

/-- Some number of steps of the machine takes `s` to `t`. -/
def runsTo (s t : State) : Prop := ∃ n, Host.Core.run core n s = .next t

theorem runsTo.refl (s : State) : runsTo s s := ⟨0, rfl⟩

theorem runsTo.head {s t u : State} (h : step s = .next t) (k : runsTo t u) : runsTo s u := by
  obtain ⟨n, hn⟩ := k
  have hs : core.step s = .next t := h
  exact ⟨n + 1, by simp only [Host.Core.run, hs, hn]⟩

theorem runsTo.one {s t : State} (h : step s = .next t) : runsTo s t := .head h (.refl t)

theorem runsTo.trans {s t u : State} (h : runsTo s t) (k : runsTo t u) : runsTo s u := by
  obtain ⟨n, hn⟩ := h
  induction n generalizing s with
  | zero =>
    cases hn
    exact k
  | succ n ih =>
    cases hs : core.step s <;> simp only [Host.Core.run, hs, reduceCtorEq] at hn
    exact .head hs (ih hn)

/-! ### Runs that are acknowledged -/

/-- The command in CMDR is `i`, no move is scheduled, ENV ends what holds the bus (R93), and it has `a` address bytes
and `b` other bytes to acknowledge. -/
structure Acknowledged (i : Instr) (a b : Nat) (s : State) : Prop where
  legal : cfgLegal s.cfg = true
  moves : s.moves = []
  command : decodeDescriptor s.cmdr = .ok i
  resolves : s.env.resolves = true
  addr : s.env.addr = List.replicate a .ack
  tx : s.env.tx = List.replicate b .ack

/-- The machine runs from `s` to `t` inside transactions of `i`, with these bus events, and can go on with these
acknowledges. -/
structure RunsBus (i : Instr) (es : List Event) (a b : Nat) (s t : State) : Prop where
  run : runsTo s t
  moves : Moves es s t
  acked : Acknowledged i a b t

theorem RunsBus.trans {i : Instr} {es fs : List Event} {a b a' b' : Nat} {s t u : State} (h : RunsBus i es a b s t)
    (k : RunsBus i fs a' b' t u) : RunsBus i (es ++ fs) a' b' s u :=
  ⟨h.run.trans k.run, h.moves.trans k.moves, k.acked⟩

section
variable {i : Instr} {a b a' b' : Nat} {s t : State} {k : Site} {x : XferAt}

theorem Acknowledged.fetches (h : Acknowledged i a b s) (hp : s.seq.phase.inImage = false) : fetch s = some i :=
  fetch_of_fetches (.inl ⟨hp, h.command⟩)

/-- Where the block is not held, the step is the command's (R16). -/
theorem Acknowledged.step_eq (h : Acknowledged i a b s) (hi : s.seq.phase ≠ .idle)
    (hp : s.seq.phase.inImage = false) (hh : s.held = false) : step s = exec i s := by
  rw [step_of_defaultDue h.legal (.inl h.moves), State.lingers_of_running hi, hh, if_neg (by nofun),
    blockTurn_running hi (h.fetches hp)]

theorem State.held_cmd (hp : s.seq.phase = .cmd k x) : s.held = (x.atStart && busHeld s.bt) := by
  simp only [State.held, hp]

/-- Inside a transaction the step is the command's, unless it is held at a Start (R143). -/
theorem Acknowledged.step_cmd (h : Acknowledged i a b s) (hp : s.seq.phase = .cmd k x)
    (hx : x.atStart = false ∨ busHeld s.bt = false) : step s = exec i s := by
  refine h.step_eq (by rw [hp]; nofun) (by rw [hp]; rfl) ?_
  rw [State.held_cmd hp, Bool.and_eq_false_iff]
  exact hx

theorem Acknowledged.of_onlyBus (h : Acknowledged i a b s) (hb : OnlyBus s t) (hr : t.env.resolves = s.env.resolves)
    (ha : t.env.addr = List.replicate a' .ack) (ht : t.env.tx = List.replicate b' .ack) : Acknowledged i a' b' t :=
  ⟨hb.cfg ▸ h.legal, hb.moves.trans h.moves, hb.cmdr ▸ h.command, hr.trans h.resolves, ha, ht⟩

/-- A step of the command that asks ENV nothing. -/
theorem Acknowledged.of_exec (h : Acknowledged i a b s) (he : exec i s = .next t) (hv : t.env = s.env) :
    Acknowledged i a b t := by
  obtain ⟨hc, hd, -, hm⟩ := (exec_keepsProgram he).fixed
  exact ⟨hc ▸ h.legal, hm.trans h.moves, hd ▸ h.command, hv ▸ h.resolves, hv ▸ h.addr, hv ▸ h.tx⟩

/-- ENV frees the bus for a Start, where anything holds it (R93). -/
theorem Acknowledged.runs_freed (h : Acknowledged i a b s) (hp : s.seq.phase = .cmd k x) (hx : x.atStart = true) :
    RunsBus i [] a b s (withBusFreed s) := by
  refine ⟨?_, ⟨⟨rfl, rfl, rfl, rfl, rfl, rfl, rfl, rfl, rfl, rfl, rfl, rfl, rfl, [], (List.append_nil _).symm⟩,
    (List.append_nil _).symm⟩, ⟨h.legal, h.moves, h.command, h.resolves, h.addr, h.tx⟩⟩
  cases hb : busHeld s.bt with
  | true =>
    refine .one ?_
    have hl : s.lingers = true := by
      rw [State.lingers_of_running (by rw [hp]; nofun), State.held_cmd hp, hx, hb]
      rfl
    rw [step_of_defaultDue h.legal (.inl h.moves), if_pos ⟨hl, .inl h.resolves⟩]
  | false =>
    obtain ⟨hstp, hbb⟩ := Bool.or_eq_false_iff.mp hb
    have hfree : withBusFreed s = s := congrArg (fun b => { s with bt := b }) (BusRegs.eq_of_free hstp hbb).symm
    rw [hfree]
    exact .refl s

/-- A step inside a transaction that uses answers of ENV. -/
theorem Acknowledged.runs_step (h : Acknowledged i a b s) {es : List Event} {rxs : List Byte} {rdys : List Bool}
    (hs : step s = .next t) (hm : Moves es s t)
    (hu : EnvUsed s.env (List.replicate a' .ack) (List.replicate b' .ack) rxs rdys t.env) : RunsBus i es a' b' s t :=
  ⟨.one hs, hm, h.of_onlyBus hm.bus hu.resolves hu.addr hu.tx⟩

end

/-! ### A write -/

section
variable {i : Instr} {a b : Nat} {s : State} {k : Site}

theorem exec_of_execTimes_one {t : State} (h : execTimes 1 i s = .next t) : exec i s = .next t := by
  rw [execTimes] at h
  cases he : exec i s with
  | next u => rw [he] at h; exact h
  | fault f => rw [he] at h; cases h
  | refused r => rw [he] at h; cases h

/-- The payload of a write, one byte per step (R152). -/
theorem Acknowledged.runs_payload (hi : i.isCommand = true) (hk : ownsSite i k = true) (bs : List Byte)
    (h : Acknowledged i a (b + bs.length) s) (hp : s.seq.phase = .cmd k (.w .data)) (hb : s.seq.txbuf = bs)
    (hm : s.bt.rm = true) :
    ∃ t, RunsBus i (bs.map fun c => .tx c .ack) a b s t ∧ t.seq.phase = .cmd k (.w .data) ∧ t.seq.txbuf = [] := by
  induction bs generalizing s with
  | nil => exact ⟨s, ⟨.refl s, ⟨.refl s, (List.append_nil _).symm⟩, h⟩, hp, hb⟩
  | cons c cs ih =>
    obtain ⟨e, he, hs⟩ := exec_payload hi hk [c] cs s (List.replicate (b + cs.length) .ack) hp hb hm h.tx
    have hstep := (h.step_cmd hp (.inl rfl)).trans (exec_of_execTimes_one hs)
    rw [h.addr] at he
    have hrun := h.runs_step hstep
      ⟨⟨rfl, rfl, rfl, rfl, rfl, rfl, rfl, rfl, rfl, rfl, rfl, rfl, rfl, _, rfl⟩, rfl⟩ he
    obtain ⟨t, ht, hpt, hbt⟩ := ih hrun.acked hp rfl hm
    exact ⟨t, hrun.trans ht, hpt, hbt⟩

/-- A write that is acknowledged throughout, from its Start, whether that is held or not, to the step before its STOP
(R93, R152). -/
theorem Acknowledged.runs_sent (hi : i.isCommand = true) (hk : ownsSite i k = true)
    (h : Acknowledged i (a + 1) (b + s.seq.txbuf.length + 1) s) (hp : s.seq.phase = .cmd k (.w .start))
    (hm : s.bt.rm = true) :
    ∃ t, RunsBus i (sentTrace s.bt.sa s.bt.rega s.seq.txbuf) a b s t ∧ t.seq.phase = .cmd k (.w .data) ∧
      t.seq.txbuf = [] := by
  have hfree := h.runs_freed hp rfl
  obtain ⟨e, he, hstart⟩ := exec_write_start hi hk (s := withBusFreed s) hp ⟨rfl, rfl⟩ h.addr
  rw [show (withBusFreed s).env.tx = _ from h.tx] at he
  have hstart' := hfree.acked.runs_step ((hfree.acked.step_cmd hp (.inr rfl)).trans hstart)
    ⟨⟨rfl, rfl, rfl, rfl, rfl, rfl, rfl, rfl, rfl, rfl, rfl, rfl, rfl, _, rfl⟩, rfl⟩ he
  obtain ⟨f, hf, hreg⟩ := exec_write_reg hi hk (by rfl) (by exact hm) hstart'.acked.tx
  rw [hstart'.acked.addr] at hf
  have hreg' := hstart'.acked.runs_step ((hstart'.acked.step_cmd rfl (.inl rfl)).trans hreg)
    ⟨⟨rfl, rfl, rfl, rfl, rfl, rfl, rfl, rfl, rfl, rfl, rfl, rfl, rfl, _, rfl⟩, rfl⟩ hf
  obtain ⟨t, hdata, hpt, hbt⟩ := hreg'.acked.runs_payload hi hk s.seq.txbuf rfl rfl hm
  exact ⟨t, ((hfree.trans hstart').trans hreg').trans hdata, hpt, hbt⟩

end

/-! ### The three writes of a chunk -/

theorem isCommand_of_runsUpload {i : Instr} (h : runsUpload i .cmd) : i.isCommand = true := by
  rcases h with ⟨⟨v, b, o, n, p, rfl⟩, -⟩ | ⟨-, he⟩
  · rfl
  · exact nomatch congrFun₂ he .upData (.w .data)

theorem ownsSite_of_runsUpload {i : Instr} {here : Site → XferAt → Phase} (h : runsUpload i here) (k : Site) :
    ownsSite i k = k.ofUpload := by
  rcases h with ⟨⟨v, b, o, n, p, rfl⟩, -⟩ | ⟨⟨b, o, d, rfl⟩, -⟩ <;> rfl

theorem beginsDevWrite_congr {here : Site → XferAt → Phase} {k : Site} {reg : Byte} {data : List Byte} {s s' t : State}
    (hc : s'.cfg = s.cfg) (h : beginsDevWrite here k reg data s t) : beginsDevWrite here k reg data s' t := by
  rw [beginsDevWrite, hc]
  exact h

theorem State.imgBytes_congr {s t : State} (hi : t.img = s.img) (he : t.epoch = s.epoch) (p n : Nat) :
    t.imgBytes p n = s.imgBytes p n :=
  List.map_congr_left fun k _ => State.imgByte_congr hi he (p + k)

section
variable {i : Instr} {a b : Nat} {s t : State} {k : Site} {reg : Byte} {data : List Byte}

/-- A write of a chunk, from its Start to the step before its STOP. -/
theorem Acknowledged.runs_chunkSent (h : Acknowledged i (a + 1) (b + data.length + 1) s) (hi : runsUpload i .cmd)
    (hk : k.ofUpload = true) (hs : beginsDevWrite .cmd k reg data s s) :
    ∃ t, RunsBus i (sentTrace s.cfg.dev.devaddr reg data) a b s t ∧ t.seq.phase = .cmd k (.w .data) ∧
      t.seq.txbuf = [] := by
  obtain ⟨hp, rfl, ⟨hsa, rfl, -⟩, ⟨hm, -⟩, -⟩ := hs
  rw [← hsa]
  exact h.runs_sent (isCommand_of_runsUpload hi) ((ownsSite_of_runsUpload hi k).trans hk) hp hm

/-- The STOP of a chunk's write asks ENV nothing, nor does what follows it. -/
theorem exec_chunkSent_env (hi : runsUpload i .cmd) (hk : k.ofUpload = true) (hp : s.seq.phase = .cmd k (.w .data))
    (hsent : s.seq.txbuf = []) (he : exec i s = .next t) : t.env = s.env := by
  rw [exec_upload_done hi hk hp (xferStep_sent hsent), Host.Outcome.next.injEq] at he
  subst he
  exact ((blockReply_quiet .cmd k _ s.stop).elim (uploadEnd_quiet hi)).env

/-- A write of a chunk that another write follows: the start address after the bank select, or the data after the start
address (R202). -/
theorem Acknowledged.runs_chunkWrite {k' : Site} {reg' : Byte} {data' : List Byte}
    (h : Acknowledged i (a + 1) (b + data.length + 1) s) (hi : runsUpload i .cmd)
    (hs : beginsDevWrite .cmd k reg data s s)
    (hnext : k = .upSelect ∧ k' = .upAddr ∧ reg' = s.cfg.dev.raMemStartAddr ∧ data' = [s.fp.curoff] ∨
      k = .upAddr ∧ k' = .upData ∧ reg' = s.cfg.dev.raMemRW ∧
        data' = s.imgBytes s.fp.srcptr.toNat s.fp.chunklen.toNat) :
    ∃ t, RunsBus i (writeTrace s.cfg.dev.devaddr reg data) a b s t ∧ beginsDevWrite .cmd k' reg' data' t t := by
  have hk : k.ofUpload = true := by rcases hnext with ⟨rfl, -⟩ | ⟨rfl, -⟩ <;> rfl
  obtain ⟨u, hrun, hp, hsent⟩ := h.runs_chunkSent hi hk hs
  have hbus := hrun.moves.bus
  rw [← hbus.cfg, ← hbus.fp, ← State.imgBytes_congr hbus.img hbus.epoch] at hnext
  obtain ⟨-, hreply, hdata⟩ := blockReply_begins .cmd (s := u) (hnext.imp_right .inl)
  have hexec := exec_upload_done hi hk hp (xferStep_sent hsent)
  rw [hreply] at hexec
  have hstop : RunsBus i [.stop] a b u (u.stop.beginWrite u.cfg.dev.devaddr reg' data' (.cmd k')) :=
    ⟨.one ((hrun.acked.step_cmd hp (.inl rfl)).trans hexec),
      ⟨u.stop_onlyBus.trans (OnlyBus.beginWrite _ _ _ _ _), rfl⟩,
      hrun.acked.of_exec hexec (exec_chunkSent_env hi hk hp hsent hexec)⟩
  exact ⟨_, sentTrace_stop _ _ _ ▸ hrun.trans hstop, beginsDevWrite_beginWrite (u := u.stop) rfl hdata .cmd k' reg'⟩

end

/-! ### A chunk -/

/-- The block stands at the bank select of a chunk of an upload without verify (R201, R202). -/
structure ChunkReady (s : State) : Prop where
  inside : chunkInv s
  unverified : s.fp.verify = false
  length : s.fp.chunklen.toNat = chunkLen s.cfg.chunk s.fp.remain.toNat s.fp.curoff.toNat
  begins : beginsDevWrite .cmd .upSelect s.cfg.dev.raBankSel [bankByte s.fp.curbank 0 0] s s

/-- The bus events of one chunk without verify (R202). -/
def chunkTrace (c : Cfg) (bank : BitVec 5) (off : Byte) (data : List Byte) : List Event :=
  writeTrace c.dev.devaddr c.dev.raBankSel [bankByte bank 0 0] ++ writeTrace c.dev.devaddr c.dev.raMemStartAddr [off] ++
    writeTrace c.dev.devaddr c.dev.raMemRW data

/-- From `s` to `t` the machine has uploaded a chunk: the registers have advanced by its length, and the block stands at
the next chunk, or UPBLK has gone to its OK (R202). -/
structure ChunkRun (i : Instr) (a b : Nat) (s t : State) : Prop where
  run : runsTo s t
  acked : Acknowledged i a b t
  program : KeepsProgram s t
  traced : traced s (chunkTrace s.cfg s.fp.curbank s.fp.curoff s.chunkBytes) t
  srcptr : t.fp.srcptr.toNat = s.fp.srcptr.toNat + s.fp.chunklen.toNat
  remain : t.fp.remain.toNat + s.fp.chunklen.toNat = s.fp.remain.toNat
  last : t.fp.remain = 0 → t.seq.phase = .ending (.succeed false)
  more : t.fp.remain ≠ 0 → ChunkReady t ∧ linearAddr t.fp.curbank.toNat t.fp.curoff.toNat =
    linearAddr s.fp.curbank.toNat s.fp.curoff.toNat + s.fp.chunklen.toNat

section
variable {i : Instr} {a b : Nat} {s : State}

/-- The chunk that begins after another one is ready (R201, R202). -/
theorem ChunkUploaded.ready {u t : State} {vbuf : List Byte} (h : ChunkUploaded i .cmd vbuf u t)
    (hu : Acknowledged i a b u) (he : exec i u = .next t) (hp : u.seq.phase = .cmd .upData (.w .data))
    (hinv : chunkInv u) (hv : u.fp.verify = false) (hr : t.fp.remain ≠ 0) : ChunkReady t := by
  obtain ⟨hcfg, -⟩ := (exec_keepsProgram he).fixed
  obtain ⟨-, -, hlen, hbegins⟩ := h.more hr
  have hkept := exec_keeps_uploadInv hu.legal ((uploadInv_cmd hp).mpr fun _ => hinv)
    (hu.fetches (by rw [hp]; rfl)) he
  refine ⟨(uploadInv_cmd hbegins.1).mp hkept rfl, h.verify.trans hv, ?_, ?_⟩
  · rw [hcfg]
    exact hlen
  · rw [hcfg]
    exact beginsDevWrite_congr hcfg hbegins

/-- The three writes of a chunk, to the step before the STOP of the last. -/
theorem Acknowledged.runs_chunkWrites (h : Acknowledged i (a + 3) (b + s.fp.chunklen.toNat + 5) s)
    (hi : runsUpload i .cmd) (hs : ChunkReady s) :
    ∃ u, RunsBus i (writeTrace s.cfg.dev.devaddr s.cfg.dev.raBankSel [bankByte s.fp.curbank 0 0] ++
        writeTrace s.cfg.dev.devaddr s.cfg.dev.raMemStartAddr [s.fp.curoff] ++
        sentTrace s.cfg.dev.devaddr s.cfg.dev.raMemRW s.chunkBytes) a b s u ∧
      u.seq.phase = .cmd .upData (.w .data) ∧ u.seq.txbuf = [] := by
  obtain ⟨u₁, hrun₁, hbegins₁⟩ := h.runs_chunkWrite hi hs.begins (.inl ⟨rfl, rfl, rfl, rfl⟩)
  have hb₁ := hrun₁.moves.bus
  obtain ⟨u₂, hrun₂, hbegins₂⟩ := hrun₁.acked.runs_chunkWrite hi hbegins₁ (.inr ⟨rfl, rfl, rfl, rfl⟩)
  have hb₂ := (hrun₁.trans hrun₂).moves.bus
  have hack : Acknowledged i (a + 1) (b + s.chunkBytes.length + 1) u₂ := by
    rw [State.chunkBytes, State.length_imgBytes]
    exact hrun₂.acked
  rw [hb₁.cfg] at hrun₂ hbegins₂
  rw [hb₁.fp, State.imgBytes_congr hb₁.img hb₁.epoch] at hbegins₂
  obtain ⟨u, hrun₃, hp, hsent⟩ := hack.runs_chunkSent hi rfl hbegins₂
  rw [hb₂.cfg] at hrun₃
  exact ⟨u, (hrun₁.trans hrun₂).trans hrun₃, hp, hsent⟩

/-- A chunk without verify, from its bank select to the STOP of its data (R202). -/
theorem Acknowledged.runs_chunk (h : Acknowledged i (a + 3) (b + s.fp.chunklen.toNat + 5) s) (hi : runsUpload i .cmd)
    (hs : ChunkReady s) : ∃ t, ChunkRun i a b s t := by
  obtain ⟨u, hrun, hp, hsent⟩ := h.runs_chunkWrites hi hs
  have hbus := hrun.moves.bus
  have hinv : chunkInv u := chunkInv_congr hbus.fp hbus.cfg hs.inside
  have hv : u.fp.verify = false := hbus.fp ▸ hs.unverified
  obtain ⟨vbuf, hexec, -⟩ := exec_chunk_stopped hi (.inl ⟨hp, hsent, hv⟩)
  have hup := chunkStopped_uploaded hi hrun.acked.legal hinv vbuf
  have hstep := (hrun.acked.step_cmd hp (.inl rfl)).trans hexec
  refine ⟨_, hrun.run.trans (.one hstep), hrun.acked.of_exec hexec (exec_chunkSent_env hi rfl hp hsent hexec),
    hbus.keepsProgram.trans (exec_keepsProgram hexec), ?_, ?_, ?_, fun hr => ((hup.last hr).2.1 rfl).1, fun hr =>
    ⟨hup.ready hrun.acked hexec hp hinv hv hr, ?_⟩⟩
  · have htrace := hrun.moves.traced.append hup.stop.1
    rwa [List.append_assoc, sentTrace_stop] at htrace
  · rw [hup.srcptr, hbus.fp]
  · rw [← hbus.fp]
    exact hup.remain
  · obtain ⟨-, hlinear, -⟩ := hup.more hr
    rw [hlinear, hbus.fp]

end

/-! ### The chunks of a block -/

/-- The bank and the offset are the parts of a linear address (R74, R81). -/
theorem linearAddr_parts (bank : BitVec 5) (off : Byte) :
    BitVec.ofNat 5 (linearAddr bank.toNat off.toNat / 256) = bank ∧
      BitVec.ofNat 8 (linearAddr bank.toNat off.toNat) = off ∧ linearAddr bank.toNat off.toNat % 256 = off.toNat := by
  simp only [linearAddr, bankSize]
  refine ⟨?_, ?_, ?_⟩ <;> bv_omega

theorem State.imgBytes_add (s : State) (p m n : Nat) :
    s.imgBytes p (m + n) = s.imgBytes p m ++ s.imgBytes (p + m) n := by
  simp only [State.imgBytes, List.range_add, List.map_append, List.map_map]
  exact congrArg _ (List.map_congr_left fun k _ => congrArg s.imgByte (Nat.add_assoc p m k).symm)

theorem uploadTrace_nil (c : Cfg) (n p : Nat) : uploadTrace c n p [] = [] := by cases n <;> rfl

/-- The bus events of a block that begins with a chunk (R202). -/
theorem uploadTrace_chunk {s : State} (hs : ChunkReady s) {m : Nat}
    (hm : m + s.fp.chunklen.toNat = s.fp.remain.toNat) (n : Nat) :
    uploadTrace s.cfg (n + 1) (linearAddr s.fp.curbank.toNat s.fp.curoff.toNat)
        (s.imgBytes s.fp.srcptr.toNat s.fp.remain.toNat) =
      chunkTrace s.cfg s.fp.curbank s.fp.curoff s.chunkBytes ++
        uploadTrace s.cfg n (linearAddr s.fp.curbank.toNat s.fp.curoff.toNat + s.fp.chunklen.toNat)
          (s.imgBytes (s.fp.srcptr.toNat + s.fp.chunklen.toNat) m) := by
  obtain ⟨hbank, hoff, hmod⟩ := linearAddr_parts s.fp.curbank s.fp.curoff
  have hpos : 1 ≤ s.fp.chunklen.toNat := hs.inside.1
  have hlen : (s.imgBytes s.fp.srcptr.toNat s.fp.remain.toNat).length = s.fp.remain.toNat := s.length_imgBytes _ _
  have hne : s.imgBytes s.fp.srcptr.toNat s.fp.remain.toNat ≠ [] := List.ne_nil_of_length_pos (by omega)
  rw [uploadTrace, if_neg hne, hlen, hbank, hoff, hmod, ← hs.length, ← hm, Nat.add_comm m, State.imgBytes_add]
  dsimp only
  rw [List.take_left' (State.length_imgBytes _ _ _), List.drop_left' (State.length_imgBytes _ _ _)]
  rfl

/-- From `s` to `t` the machine has uploaded the rest of a block, with these bus events, and UPBLK has gone to its OK. -/
structure BlockRun (i : Instr) (es : List Event) (s t : State) : Prop where
  run : runsTo s t
  acked : ∃ a b, Acknowledged i a b t
  traced : traced s es t
  phase : t.seq.phase = .ending (.succeed false)
  remain : t.fp.remain = 0
  srcptr : t.fp.srcptr.toNat = s.fp.srcptr.toNat + s.fp.remain.toNat

/-- A chunk and then the rest of its block are that block. -/
theorem ChunkRun.block {i : Instr} {a b : Nat} {es : List Event} {s t u : State} (h : ChunkRun i a b s t)
    (k : BlockRun i es t u) :
    BlockRun i (chunkTrace s.cfg s.fp.curbank s.fp.curoff s.chunkBytes ++ es) s u := by
  refine ⟨h.run.trans k.run, k.acked, h.traced.append k.traced, k.phase, k.remain, ?_⟩
  rw [k.srcptr, h.srcptr, ← h.remain]
  omega

/-- The chunks of a block in turn, by induction on a bound of their number (R202, R204). -/
theorem Acknowledged.runs_block {i : Instr} (hi : runsUpload i .cmd) (n : Nat) {a b : Nat} {s : State}
    (h : Acknowledged i a b s) (hs : ChunkReady s) (hn : s.fp.remain.toNat ≤ n) (ha : 3 * s.fp.remain.toNat ≤ a)
    (hb : 6 * s.fp.remain.toNat ≤ b) :
    ∃ t, BlockRun i (uploadTrace s.cfg n (linearAddr s.fp.curbank.toNat s.fp.curoff.toNat)
      (s.imgBytes s.fp.srcptr.toNat s.fp.remain.toNat)) s t := by
  induction n generalizing a b s with
  | zero =>
    obtain ⟨hpos, hle, -⟩ := hs.inside
    omega
  | succ n ih =>
    obtain ⟨hpos, hle, -⟩ := hs.inside
    obtain ⟨a, rfl⟩ : ∃ a', a = a' + 3 := ⟨a - 3, by omega⟩
    obtain ⟨b, rfl⟩ : ∃ b', b = b' + s.fp.chunklen.toNat + 5 := ⟨b - s.fp.chunklen.toNat - 5, by omega⟩
    obtain ⟨t, ht⟩ := h.runs_chunk hi hs
    have hremain := ht.remain
    rw [uploadTrace_chunk hs hremain]
    by_cases hr : t.fp.remain = 0
    · have hz : t.fp.remain.toNat = 0 := by rw [hr]; rfl
      have hdone : BlockRun i [] t t :=
        ⟨.refl t, ⟨a, b, ht.acked⟩, (List.append_nil _).symm, ht.last hr, hr, by rw [hz]; rfl⟩
      rw [hz, show s.imgBytes _ 0 = [] from rfl, uploadTrace_nil]
      exact ⟨t, ht.block hdone⟩
    · obtain ⟨hready, hlinear⟩ := ht.more hr
      obtain ⟨⟨hcfg, -, hepoch, -⟩, himg⟩ := ht.program
      obtain ⟨u, hu⟩ := ih ht.acked hready (by omega) (by omega) (by omega)
      rw [hcfg, hlinear, ht.srcptr, State.imgBytes_congr himg hepoch] at hu
      exact ⟨u, ht.block hu⟩

/-! ### The whole command -/

theorem exec_upblk_accepted_env {v : BitVec 1} {bank : BitVec 5} {offs : Byte} {size src : BitVec 16} {s t : State}
    (hp : accepted s) (hinit : s.bt.initd = true) (hl : operandsLegal s.cfg (.upblk v bank offs size src) = true)
    (he : exec (.upblk v bank offs size src) s = .next t) : t.env = s.env := by
  rw [exec_accepted hp rfl, acceptStep_upblk_legal hinit hl, Host.Outcome.next.injEq] at he
  subst he
  exact ((blockEnter_quiet .cmd _ _ _ _ _ s).elim (endUpload_quiet _)).env

/-- An accepted UPBLK without verify enters its block in one step, and runs through it (R203). -/
theorem Acknowledged.runs_accepted {a b : Nat} {bank : BitVec 5} {offs : Byte} {size src : BitVec 16} {s : State}
    (h : Acknowledged (.upblk 0 bank offs size src) a b s) (hp : accepted s) (hinit : s.bt.initd = true)
    (hl : operandsLegal s.cfg (.upblk 0 bank offs size src) = true) (ha : 3 * size.toNat ≤ a)
    (hb : 6 * size.toNat ≤ b) :
    ∃ t u, step s = .next t ∧ t.trace = s.trace ∧ t.fp.remain = size ∧ t.fp.srcptr.toNat = src.toNat ∧
      BlockRun (.upblk 0 bank offs size src) (uploadTrace s.cfg size.toNat (linearAddr bank.toNat offs.toNat)
        (s.imgBytes src.toNat size.toNat)) t u := by
  obtain ⟨t, hexec, htrace, ⟨hbank, hoff, hremain, hsrc, hverify, -⟩, hempty, hbegins⟩ :=
    upblkEntersItsFirstChunk 0 bank offs size src s hp hinit hl
  have hphase : s.seq.phase = .accepted := hp
  have hstep := (h.step_eq (by rw [hphase]; nofun) (by rw [hphase]; rfl)
    (by simp only [State.held, hphase])).trans hexec
  have hack := h.of_exec hexec (exec_upblk_accepted_env hp hinit hl hexec)
  obtain ⟨⟨hcfg, -, hepoch, -⟩, himg⟩ := exec_keepsProgram hexec
  by_cases hz : size = 0
  · subst hz
    exact ⟨t, t, hstep, htrace, hremain, hsrc, .refl t, ⟨a, b, hack⟩, (List.append_nil _).symm, hempty rfl, hremain,
      by rw [hremain]; rfl⟩
  · obtain ⟨hlen, hbegins⟩ := hbegins hz (cfgLegal_chunk h.legal).1 (cfgLegal_chunk h.legal).2
    have hkept := exec_keeps_uploadInv h.legal (by simp only [uploadInv, hphase])
      (h.fetches (by rw [hphase]; rfl)) hexec
    have hready : ChunkReady t := by
      refine ⟨(uploadInv_cmd hbegins.1).mp hkept rfl, hverify, ?_, ?_⟩
      · rw [hcfg, hremain, hoff]
        exact hlen
      · rw [hcfg, hbank]
        exact beginsDevWrite_congr hcfg hbegins
    obtain ⟨u, hu⟩ := hack.runs_block (.inl ⟨⟨_, _, _, _, _, rfl⟩, rfl⟩) size.toNat hready (by rw [hremain])
      (by rwa [hremain]) (by rwa [hremain])
    rw [hcfg, hbank, hoff, hsrc, hremain, State.imgBytes_congr himg hepoch] at hu
    exact ⟨t, u, hstep, htrace, hremain, hsrc, hu⟩

/-- Settles O37: the entry, the chunks in turn, and the ending of UPBLK. -/
theorem upblkUploadsTheWholeBlock : Obligations.UpblkUploadsTheWholeBlock := by
  intro bank offs size src s hc hm hr hp hinit _ hd hl haddr ha htx hb
  have h : Acknowledged (.upblk 0 bank offs size src) s.env.addr.length s.env.tx.length s :=
    ⟨hc, hm, hd, hr, List.eq_replicate_of_mem haddr, List.eq_replicate_of_mem htx⟩
  obtain ⟨t, u, hstep, htrace, hremain, hsrc, hu⟩ := h.runs_accepted hp hinit hl ha hb
  obtain ⟨a, b, hack⟩ := hu.acked
  have hend : step u = .next (u.finish (.succeed false)) :=
    (hack.step_eq (by rw [hu.phase]; nofun) (by rw [hu.phase]; rfl) (by simp only [State.held, hu.phase])).trans
      (exec_ending hu.phase rfl)
  obtain ⟨n, hn⟩ := (runsTo.head hstep hu.run).trans (.one hend)
  refine ⟨n, _, hn, rfl, rfl, hu.remain, ?_, ?_⟩
  · rw [← hsrc, ← hremain]
    exact hu.srcptr
  · rw [← htrace]
    exact hu.traced

end Sys2Proof.Machine
end

section
/-! SUPPORT. A mean over one sample: the two laws of R11 make RDAVG of one sample commit the staged sample, as RDSMP
does (R250). -/

namespace Sys2Proof.Machine

/-! ### The numbers of a mean over one sample -/

theorem numAdd_zero_left (a : Num) : numAdd (.ofInt 0) a = a := if_pos rfl

theorem numDiv_one_right (a : Num) : numDiv a (.ofInt 1) = a := if_pos rfl

theorem accAdd_accZero (v : Sample) : accAdd accZero v = v := by
  simp only [accAdd, accZero, Sample.zipWith, Sample.const, numAdd_zero_left]

theorem accMean_one (v : Sample) : accMean v 1 = v := by
  have hone : Num.ofInt ((1 : BitVec 16).toNat : Int) = .ofInt 1 := rfl
  simp only [accMean, hone, Sample.zipWith, Sample.const, numDiv_one_right]

/-! ### The last step of RDAVG of one sample -/

/-- RDAVG's only sample is committed as it was staged. -/
theorem averageSampleEnd_one {s : State} (hn : s.ae.avgn = 1) (hi : s.ae.avgi = 0) (hacc : s.ae.acc = accZero) :
    averageSampleEnd none s = commitSample s.ae.stg (addSample s) := by
  have hlast : ¬ (s.ae.avgi + 1).toNat < s.ae.avgn.toNat := by rw [hn, hi]; decide
  have hsum : (addSample s).ae.acc = s.ae.stg := by
    rw [addSample, hacc, accAdd_accZero]
  rw [averageSampleEnd_last hlast, hn, accMean_one, hsum]

/-- The last step of a sample read, whatever bytes the temperature read has received (R245). -/
theorem exec_sample_staged {i : Instr} {s : State} (hi : readsSample i = true)
    (hp : s.seq.phase = .cmd .temp (.r .stop2)) :
    exec i s = .next (sampleEnd i none (sampleStaged s (pairAt s.seq.rbuf 0))) :=
  exec_sample_done hi rfl hp (xferStep_stop2 rfl)

/-- Settles O48: both commands commit the same staged sample. -/
theorem averageOfOneIsTheSample : Obligations.AverageOfOneIsTheSample := by
  intro s hp hn hi hacc
  have hend := averageSampleEnd_one (s := sampleStaged s (pairAt s.seq.rbuf 0)) hn hi hacc
  exact ⟨_, _, (exec_sample_staged (i := .rdavg 1) rfl hp).trans (congrArg _ hend),
    exec_sample_staged (i := .rdsmp) rfl hp, rfl, rfl, rfl, rfl⟩

end Sys2Proof.Machine
end

section
/-! SUPPORT. How a command ends: what its ending step writes (R275, R276), and with which codes it can end (R273). -/

namespace Sys2Proof.Machine

/-! ### The ending step -/

theorem State.finish_eq_endedWith (s : State) (e : Ending) : s.finish e = endedWith e.result s := by
  cases e <;> rfl

/-- Settles O18: whatever the command, its ending step is the shared one. -/
theorem endingWritesResultAndBusyOnly : Obligations.EndingWritesResultAndBusyOnly := fun _ s hi =>
  ⟨fun _ _ hp => (exec_ending hp hi).trans (congrArg _ (s.finish_eq_endedWith _)),
    fun _ hp => (exec_ending hp hi).trans (congrArg _ (s.finish_eq_endedWith _))⟩

/-! ### The codes of R273 -/

theorem mayEndWith_ok {i : Instr} (hi : i.isCommand = true) : mayEndWith i .ok = true := by
  cases i
  case recData | recSpcInten => cases hi
  all_goals rfl

/-- The codes with which the transaction of a call site can fail: only a read polls, and so can time out (R145, R147,
R151). -/
def Site.failsWith (k : Site) (c : Code) : Prop := c = .busNack ∨ c = .arbLost ∨ c = .busTimeout ∧ siteReads k = true

theorem xferStep_failsWith {s u : State} {k : Site} {x : XferAt} {c : Code} (hx : siteMatches k x = true)
    (h : xferStep s x = .done (.fail c) u) : k.failsWith c := by
  obtain ⟨-, hfits, -⟩ := xferStep_done h
  rcases hfits with hn | ha | ⟨ht, rfl⟩
  · exact .inl hn
  · exact .inr (.inl ha)
  · exact .inr (.inr ⟨ht, hx⟩)

/-- A command that fails with the code of its transaction, which is every one but UPBLK and SETUP, may end with it. -/
theorem mayEndWith_of_failsWith {i : Instr} {k : Site} {c : Code} (hi : i.isCommand = true)
    (hu : uploadsBlock i = false) (hs : i ≠ .setup) (hk : ownsSite i k = true) (hc : k.failsWith c) :
    mayEndWith i c = true := by
  cases i
  case wrb | dwb | selbank | setaddr =>
    obtain rfl := eq_of_beq hk
    rcases hc with rfl | rfl | ⟨-, hread⟩
    · rfl
    · rfl
    · cases hread
  case rdb | rdbit | wrbit | wrbf | dwbf | rdsmp | rdavg => rcases hc with rfl | rfl | ⟨rfl, -⟩ <;> rfl
  case init | upimg => cases hk
  case upblk => cases hu
  case setup => exact absurd rfl hs
  case recData | recSpcInten => cases hi

/-! ### Where a command ends -/

/-- In `t` the command goes on, or the ending it goes to, or the RESULT it has ended with, has a code of its own. -/
structure EndsWithOwnCode (i : Instr) (t : State) : Prop where
  ending : ∀ e, t.seq.phase = .ending e → mayEndWith i e.code = true
  ended : t.seq.phase = .idle → mayEndWith i t.result.code = true

section
variable {i : Instr} {s t : State}

theorem EndsWithOwnCode.of_usesBus (h : t.seq.phase.usesBus = true) : EndsWithOwnCode i t :=
  ⟨fun _ he => Bool.noConfusion (he ▸ h), fun he => Bool.noConfusion (he ▸ h)⟩

theorem EndsWithOwnCode.of_ending {e : Ending} (hp : t.seq.phase = .ending e) (h : mayEndWith i e.code = true) :
    EndsWithOwnCode i t :=
  ⟨fun _ he => Phase.ending.inj (hp.symm.trans he) ▸ h, fun he => Phase.noConfusion (hp.symm.trans he)⟩

theorem State.fail_endsWithOwnCode {code cause : Code} (h : mayEndWith i code = true) :
    EndsWithOwnCode i (s.fail code cause) := ⟨nofun, fun _ => h⟩

theorem State.ifInitd_endsWithOwnCode {go : State → State} (hn : mayEndWith i .notReady = true)
    (h : EndsWithOwnCode i (go s)) : EndsWithOwnCode i (s.ifInitd go) := by
  unfold State.ifInitd
  split
  · exact h
  · exact State.fail_endsWithOwnCode hn

/-- A procedure that goes on is in a transaction, so only the use of its return value counts. -/
theorem ProcNext.elim_endsWithOwnCode {own : Site → Bool} {p : ProcNext} {ret : Option Code → State → State}
    (hp : p.enters .cmd own) (hret : ∀ r t, p = .ret r t → EndsWithOwnCode i (ret r t)) :
    EndsWithOwnCode i (p.elim ret) := by
  refine ProcNext.elim_of (fun t h => ?_) hret
  subst h
  obtain ⟨k, x, ht, -⟩ := hp
  exact .of_usesBus (by rw [ht]; rfl)

theorem endUpload_endsWithOwnCode {code : Code} (hi : i.isCommand = true) (hc : mayEndWith i code = true)
    (r : Option Code) (s : State) : EndsWithOwnCode i (endUpload code r s) := by
  cases r with
  | none => exact .of_ending rfl (mayEndWith_ok hi)
  | some c => exact .of_ending rfl hc

/-! ### The checks -/

theorem acceptStep_endsWithOwnCode (hi : i.isCommand = true) (s : State) : EndsWithOwnCode i (acceptStep i s) := by
  cases i <;> simp only [acceptStep]
  case init => exact .of_ending rfl rfl
  case setup => exact .of_usesBus rfl
  case rdbit | dwb | selbank | setaddr => exact State.ifInitd_endsWithOwnCode rfl (.of_usesBus rfl)
  case wrbit =>
    simp only [fieldLegal_one, Bool.not_true, Bool.false_eq_true, if_false]
    exact State.ifInitd_endsWithOwnCode rfl (.of_usesBus rfl)
  case wrb | rdb | wrbf | dwbf | upimg =>
    split
    · exact State.fail_endsWithOwnCode rfl
    · exact State.ifInitd_endsWithOwnCode rfl (.of_usesBus rfl)
  case upblk =>
    split
    · exact State.fail_endsWithOwnCode rfl
    · split
      · exact State.fail_endsWithOwnCode rfl
      · exact State.ifInitd_endsWithOwnCode rfl (ProcNext.elim_endsWithOwnCode (blockHead_enters .cmd _)
          fun r t _ => endUpload_endsWithOwnCode rfl rfl r t)
  case rdsmp =>
    split
    · exact State.fail_endsWithOwnCode rfl
    · exact .of_usesBus rfl
  case rdavg =>
    split
    · exact State.fail_endsWithOwnCode rfl
    · split
      · exact State.fail_endsWithOwnCode rfl
      · exact .of_usesBus rfl
  case recData | recSpcInten => cases hi

/-! ### The replies -/

/-- `ReadSample` returns a failure only where its transaction has failed, and with that code (R240). -/
theorem sampleReply_ret_some {k : Site} {r : Reply} {c : Code} (hk : k.ofSample = true)
    (h : sampleReply k r s = .ret (some c) t) : r = .fail c := by
  cases r with
  | fail c' => cases h; rfl
  | ok buf =>
    by_cases ht : k = .temp
    · subst ht
      cases h
    · obtain ⟨u, hu⟩ := sampleReply_run hk ht buf s
      cases hu.symm.trans h

theorem sampleEnd_endsWithOwnCode {r : Option Code} (hi : readsSample i = true)
    (hr : ∀ c, r = some c → mayEndWith i c = true) (s : State) : EndsWithOwnCode i (sampleEnd i r s) := by
  cases r with
  | some c =>
    rw [sampleEnd_fail]
    exact .of_ending rfl (hr c rfl)
  | none =>
    cases i
    case rdsmp => exact .of_ending rfl rfl
    case rdavg =>
      simp only [sampleEnd, averageSampleEnd]
      split
      · exact .of_usesBus rfl
      · exact .of_ending rfl rfl
    all_goals cases hi

theorem setupIdentified_endsWithOwnCode (r : Option Code) (s : State) :
    EndsWithOwnCode .setup (setupIdentified r s) := by
  cases r with
  | none => exact .of_usesBus rfl
  | some c => exact .of_ending rfl rfl

theorem endWith_endsWithOwnCode {r : Reply} (hi : i.isCommand = true)
    (hr : ∀ c, r = .fail c → mayEndWith i c = true) (s : State) : EndsWithOwnCode i (endWith r s) := by
  cases r with
  | ok buf => exact .of_ending rfl (mayEndWith_ok hi)
  | fail c => exact .of_ending rfl (hr c rfl)

theorem rmwReadReply_endsWithOwnCode {r : Reply} (hr : ∀ c, r = .fail c → mayEndWith i c = true) (sa : BitVec 7)
    (reg : Byte) (start width : Nat) (value : Byte) (s : State) :
    EndsWithOwnCode i (rmwReadReply sa reg start width value r s) := by
  cases r with
  | ok buf => exact .of_usesBus rfl
  | fail c => exact .of_ending rfl (hr c rfl)

/-- A command that passes a transaction's failure on ends with its code; UPBLK and SETUP make it their cause (R203,
R232). -/
theorem cmdReply_endsWithOwnCode {k : Site} {r : Reply} (hi : i.isCommand = true) (hk : ownsSite i k = true)
    (hr : ∀ c, r = .fail c → k.failsWith c) (c : Cfg) (s : State) : EndsWithOwnCode i (cmdReply c i k r s) := by
  have hown (hu : uploadsBlock i = false) (hs : i ≠ .setup) (c : Code) (h : r = .fail c) : mayEndWith i c = true :=
    mayEndWith_of_failsWith hi hu hs hk (hr c h)
  cases i
  case rdb | rdbit =>
    cases r with
    | ok buf => exact .of_ending rfl rfl
    | fail c => exact .of_ending rfl (hown rfl nofun c rfl)
  case wrbit | wrbf | dwbf =>
    simp only [cmdReply]
    split
    · exact rmwReadReply_endsWithOwnCode (hown rfl nofun) _ _ _ _ _ s
    · exact endWith_endsWithOwnCode rfl (hown rfl nofun) s
  case upblk =>
    exact ProcNext.elim_endsWithOwnCode (blockReply_enters .cmd k r s)
      fun r t _ => endUpload_endsWithOwnCode rfl rfl r t
  case setup =>
    exact ProcNext.elim_endsWithOwnCode (identityReply_enters r s) fun r t _ => setupIdentified_endsWithOwnCode r t
  case rdsmp | rdavg =>
    rw [cmdReply_of_readsSample rfl]
    refine ProcNext.elim_endsWithOwnCode (sampleReply_enters k r s) fun q t hq => ?_
    refine sampleEnd_endsWithOwnCode rfl (fun c hc => hown rfl nofun c ?_) t
    subst hc
    exact sampleReply_ret_some hk hq
  case wrb | dwb | selbank | setaddr => exact endWith_endsWithOwnCode rfl (hown rfl nofun) s
  case init | upimg => cases hk
  case recData | recSpcInten => cases hi

theorem imageDoneStep_endsWithOwnCode (hi : runsImage i = true) (r : Option Code) (s : State) :
    EndsWithOwnCode i (imageDoneStep i r s) := by
  cases i
  case upimg => exact endUpload_endsWithOwnCode rfl rfl r s
  case setup => cases r <;> exact .of_ending rfl rfl
  all_goals cases hi

/-! ### Every step of a command -/

/-- Up to its ending step, whose code stands in the phase, a command ends with no code but its own. -/
theorem exec_endsWithOwnCode (hi : i.isCommand = true) (hp : phaseFits i s.seq.phase = true)
    (hs : ∀ e, s.seq.phase ≠ .ending e) (h : exec i s = .next t) : EndsWithOwnCode i t := by
  rcases exec_cases h with ⟨-, -, rfl⟩ | ⟨k, x, hc, -, hk, rfl⟩ | ⟨-, hr, rfl⟩ | ⟨k, x, -, hr, -, -⟩ |
    ⟨r, -, hr, rfl⟩ | ⟨e, he, -, -⟩
  · exact acceptStep_endsWithOwnCode hi s
  · have hx : siteMatches k x = true := by rw [hc] at hp; exact (Bool.and_eq_true_iff.mp hp).2
    refine State.xfer_of (.of_usesBus (by rw [hc]; rfl)) (fun _ _ _ => .of_usesBus rfl) (fun r u hu => ?_)
    refine cmdReply_endsWithOwnCode hi hk (fun c hf => ?_) s.cfg u
    subst hf
    exact xferStep_failsWith hx hu
  · rw [imageStep_of_runsImage (hr.resolve_right (by simp [hi]))]
    exact .of_usesBus rfl
  · cases hi.symm.trans hr
  · exact imageDoneStep_endsWithOwnCode hr r s
  · exact absurd he (hs e)

end

/-- Settles O54: the ending step itself goes to no ending and is no command's first, and every other step ends with a
code of the command's own. -/
theorem commandsEndWithTheirCodes : Obligations.CommandsEndWithTheirCodes := by
  intro i s t hp hi h
  by_cases hs : ∃ e, s.seq.phase = .ending e
  · obtain ⟨e, he⟩ := hs
    cases (exec_ending he hi).symm.trans h
    rw [State.finish_eq_endedWith]
    exact ⟨nofun, fun ha => Phase.noConfusion (ha.symm.trans he)⟩
  · obtain ⟨hending, hended⟩ := exec_endsWithOwnCode hi hp (not_exists.mp hs) h
    exact ⟨hending, fun _ => hended⟩

end Sys2Proof.Machine
end
